-- ==== Sys2Proof/Word.lean ====
section
/-! DEFINITION. The value domains of the CORE (spec/00_scope.md R4 to R7, spec/30_encoding.md R44). -/

namespace Sys2Proof

/-- R4: a Block is an unsigned 8-bit value. The Key (R6) and the IV (R7) have the same domain. -/
abbrev Block := BitVec 8

/-- R6: the Key, an unsigned 8-bit value. -/
abbrev Key := BitVec 8

/-- R5: a HalfBlock (nibble) is an unsigned 4-bit value. -/
abbrev HalfBlock := BitVec 4

/-- R44: a command is one 16-bit word. -/
abbrev CmdWord := BitVec 16

end Sys2Proof
end

