-- ==== Sys2Proof/Syntax.lean ====
section
/-! DEFINITION. The commands (spec/30_encoding.md R46, one constructor per row of opcode_table.json) and
the command word's three fields (R44). -/

namespace Sys2Proof

/-- The commands of R46. Every operand is the 8-bit `DATA` field (R45), so every term is well formed; the
HalfBlock operand of SUB is the whole `DATA`, whose high nibble the command itself checks (R54, R86). -/
inductive Instr where
  /-- 0x0, R81 -/
  | nop
  /-- 0x1, R54: HalfBlock in `DATA[3:0]` -/
  | sub (data : BitVec 8)
  /-- 0x2, R59 -/
  | perm (block : Block)
  /-- 0x3, R65 -/
  | xform (block : Block)
  /-- 0x4, R68 -/
  | ecbe (block : Block)
  /-- 0x5, R69 -/
  | ecbd (block : Block)
  /-- 0x6, R75 -/
  | cbce (block : Block)
  /-- 0x7, R76 -/
  | cbcd (block : Block)
  /-- 0x8, R82 -/
  | ldkey (key : Key)
  /-- 0x9, R73 -/
  | ldiv (iv : Block)
  /-- 0xA, R74 -/
  | cbcrst
  /-- 0xB, R83 -/
  | clrerr
deriving DecidableEq, Repr

/-- R44: the single format, `OP[15:12]`, `RSV[11:8]`, `DATA[7:0]`. -/
structure CmdFields where
  op : BitVec 4
  rsv : BitVec 4
  data : BitVec 8
deriving DecidableEq, Repr

/-- Why R49 classes a word as Illegal: the three lines of its function, in order. -/
inductive IllegalReason where
  /-- `OP >= 0xC` (R48) -/
  | reservedOpcode
  /-- `RSV != 0` (R47) -/
  | reservedField
  /-- `DATA != 0` in NOP, CBCRST or CLRERR (R47) -/
  | operandField
deriving DecidableEq, Repr

/-- R49: the decoder puts every word into exactly one of these classes. -/
inductive Decoded where
  | legal (i : Instr)
  | illegal (why : IllegalReason)
deriving DecidableEq, Repr

end Sys2Proof
end

