-- ==== Sys2Proof/WellFormed.lean ====
section
/-! DEFINITION. The checks on a command word's fields (spec/30_encoding.md R47, R48) and the assembler's
check on an operand (R51). -/

namespace Sys2Proof

/-- The operations without operand, whose `DATA` must be 0 (R45, R47): NOP, CBCRST, CLRERR. -/
def takesNoOperand (op : BitVec 4) : Bool := op == 0x0#4 || op == 0xA#4 || op == 0xB#4

/-- The checks of R49 in its order: what is wrong with the fields, if anything. -/
def CmdFields.fault? (f : CmdFields) : Option IllegalReason :=
  if 0xC#4 ≤ f.op then some .reservedOpcode
  else if f.rsv ≠ 0#4 then some .reservedField
  else if takesNoOperand f.op && f.data != 0x00#8 then some .operandField
  else none

/-- A legal field triple: R49 reaches its last line. -/
def CmdFields.wellFormed (f : CmdFields) : Bool := f.fault? == none

/-- R51: the operand range the assembler admits, `[0, 15]` for SUB. The other operands are 8 bits wide
and cannot leave `[0, 255]` (R45). -/
def Instr.assemblable : Instr → Bool
  | .nop => true
  | .sub data => data ≤ 0x0F#8
  | .perm _ => true
  | .xform _ => true
  | .ecbe _ => true
  | .ecbd _ => true
  | .cbce _ => true
  | .cbcd _ => true
  | .ldkey _ => true
  | .ldiv _ => true
  | .cbcrst => true
  | .clrerr => true

end Sys2Proof
end

