-- ==== Sys2Proof/Decode.lean ====
section
/-! DEFINITION. The decoder and the encoder of the command word (spec/30_encoding.md R44 to R50). -/

namespace Sys2Proof

/-- R44: the word's fields by bit number. -/
def CmdFields.ofWord (w : CmdWord) : CmdFields where
  op := w.extractLsb' 12 4
  rsv := w.extractLsb' 8 4
  data := w.extractLsb' 0 8

/-- R46: the command an opcode names. Only reached for a legal word; the last line is no command. -/
def commandOf (op : BitVec 4) (data : BitVec 8) : Decoded :=
  match op.toNat with
  | 0x0 => .legal .nop
  | 0x1 => .legal (.sub data)
  | 0x2 => .legal (.perm data)
  | 0x3 => .legal (.xform data)
  | 0x4 => .legal (.ecbe data)
  | 0x5 => .legal (.ecbd data)
  | 0x6 => .legal (.cbce data)
  | 0x7 => .legal (.cbcd data)
  | 0x8 => .legal (.ldkey data)
  | 0x9 => .legal (.ldiv data)
  | 0xA => .legal .cbcrst
  | 0xB => .legal .clrerr
  | _ => .illegal .reservedOpcode

/-- R49: the decoder, total on the 65536 words, rejecting by name. -/
def decode (w : CmdWord) : Decoded :=
  match (CmdFields.ofWord w).fault? with
  | some why => .illegal why
  | none => commandOf (CmdFields.ofWord w).op (CmdFields.ofWord w).data

/-- The instruction of a legal word. -/
def Decoded.instr? : Decoded → Option Instr
  | .legal i => some i
  | .illegal _ => none

/-- R49: is the word Legal? -/
def isLegal (w : CmdWord) : Bool := (decode w).instr?.isSome

/-- R44: the word with these fields, `{OP, RSV, DATA}`. -/
def CmdFields.toWord (f : CmdFields) : CmdWord := f.op ++ f.rsv ++ f.data

/-- R46: the fields of a command's word. -/
def encodeFields : Instr → CmdFields
  | .nop => ⟨0x0#4, 0#4, 0x00#8⟩
  | .sub data => ⟨0x1#4, 0#4, data⟩
  | .perm block => ⟨0x2#4, 0#4, block⟩
  | .xform block => ⟨0x3#4, 0#4, block⟩
  | .ecbe block => ⟨0x4#4, 0#4, block⟩
  | .ecbd block => ⟨0x5#4, 0#4, block⟩
  | .cbce block => ⟨0x6#4, 0#4, block⟩
  | .cbcd block => ⟨0x7#4, 0#4, block⟩
  | .ldkey key => ⟨0x8#4, 0#4, key⟩
  | .ldiv iv => ⟨0x9#4, 0#4, iv⟩
  | .cbcrst => ⟨0xA#4, 0#4, 0x00#8⟩
  | .clrerr => ⟨0xB#4, 0#4, 0x00#8⟩

/-- The word of a command (R46, R50: exactly one 16-bit word). -/
def encode (i : Instr) : CmdWord := (encodeFields i).toWord

/-- The command word whose bits are `w`, of which `nbits` are given and the rest are 0. The word is
parallel, so it has no byte order (R36). -/
def tableWord (nbits w : Nat) : CmdWord := BitVec.ofNat 16 (w % 2 ^ nbits)

/-- The instruction the decoder reads from the word whose bits are `w`. -/
def decodeTableWord (nbits w : Nat) : Option Instr := (decode (tableWord nbits w)).instr?

end Sys2Proof
end

