-- ==== Sys2Proof/Config.lean ====
section
/-! DEFINITION. What an implementation fixes (spec/00_scope.md section 3) and the values the spec leaves
open. An `opaque` constant has no body: a statement about it holds for every value. -/

namespace Sys2Proof

/-- R8, R14: a SubstitutionTable, one 4-bit entry for each 4-bit index. -/
abbrev SBox := HalfBlock → HalfBlock

/-- R9, R15: a PermutationTable. Entry `i` is the source position of destination position `i`. -/
abbrev PTable := Fin 8 → Fin 8

/-- The property `SBOX_IS_PERM` of R14. The hardware never checks it (R16). -/
def SboxIsPerm (sbox : SBox) : Prop := Function.Bijective sbox

/-- The fifteen S-box entries no source states (R14, decision D3, item I1). Log entry 1. -/
opaque Config.sboxOpen : HalfBlock → HalfBlock

/-- R14: `SBOX` of this hardware. `SBOX[0xD] = 0x9` is normative, every other entry is open. -/
def Config.sbox : SBox := fun v => if v = 0xD#4 then 0x9#4 else Config.sboxOpen v

/-- R15: `PTABLE` of this hardware, the reference table `[3,0,2,4,6,1,7,5]`. -/
def Config.ptable : PTable
  | 0 => 3
  | 1 => 0
  | 2 => 2
  | 3 => 4
  | 4 => 6
  | 5 => 1
  | 6 => 7
  | 7 => 5

/-- How far `LATENCY` lies above its least value 1. Log entry 2. -/
opaque Config.latencyExtra : Nat

/-- R105: the parameter `LATENCY >= 1`, the greatest number of cycles a command takes. -/
def Config.LATENCY : Nat := Config.latencyExtra + 1

/-- Which of the admitted latencies an opcode has. Log entry 2. -/
opaque Config.latencyOpen : BitVec 4 → Nat

/-- R105: the cycles a command with this opcode takes, never zero and never more than `LATENCY`. -/
def Config.latency (op : BitVec 4) : Nat := Config.latencyOpen op % Config.LATENCY + 1

/-- What `dout` shows at an instant inside a command (item I7: any value; R98). Log entry 3. -/
opaque Config.doutInProgress : Nat → BitVec 8

/-- What `status` shows at an instant inside a command (item I7: any value). Log entry 3. DESIGN CHOICE:
all eight bits are free, bits 7:4 too, which R21 and item I9 call always 0. Log entry 13. -/
opaque Config.statusInProgress : Nat → BitVec 8

end Sys2Proof
end

