-- ==== Sys2Proof/Machine/Operands.lean ====
section
/-! DEFINITION. Operand forms (spec/30_encoding.md R45) and the bit operations of the datapath
(spec/00_scope.md R5, R11, R12). -/

namespace Sys2Proof.Machine

/-- R5: the high nibble `b[7:4]`. -/
def highNibble (b : Block) : HalfBlock := b.extractLsb' 4 4

/-- R5: the low nibble `b[3:0]`. -/
def lowNibble (b : Block) : HalfBlock := b.extractLsb' 0 4

/-- R12: `(m << 4) | s`, that is `{m, s}`. -/
def joinNibbles (m s : HalfBlock) : Block := m ++ s

/-- `zext_8` of a HalfBlock (00_scope.md section 5). -/
def zext8 (v : HalfBlock) : Block := v.setWidth 8

/-- R11: the bit of `b` at MSB-first position `p`, which is bit `7 - p`. -/
def pos (b : Block) (p : Fin 8) : Bool := b.getLsbD (7 - p.val)

/-- R11: the Block with these bits at the MSB-first positions 0 to 7. -/
def blockOfPositions (f : Fin 8 → Bool) : Block :=
  BitVec.ofBool (f 0) ++ BitVec.ofBool (f 1) ++ BitVec.ofBool (f 2) ++ BitVec.ofBool (f 3) ++
    BitVec.ofBool (f 4) ++ BitVec.ofBool (f 5) ++ BitVec.ofBool (f 6) ++ BitVec.ofBool (f 7)

/-- R45: SUB's operand, the HalfBlock `DATA[3:0]`, present only when `DATA[7:4] = 0`. -/
def halfBlockOperand (data : BitVec 8) : Option HalfBlock :=
  if highNibble data = 0#4 then some (lowNibble data) else none

end Sys2Proof.Machine
end

