-- ==== Sys2Proof/Machine/Datapath.lean ====
section
/-! DEFINITION. The combinational blocks (spec/10_state.md R27 to R31) and the functions they compute
(R53, R55, R60, R66, R67, R71, R72). The tables are arguments (spec/00_scope.md section 3). -/

namespace Sys2Proof.Machine

/-- R53: `substitute(v) = SBOX[v]`. -/
def substitute (sbox : SBox) (v : HalfBlock) : HalfBlock := sbox v

/-- R55: the output bit at position `i` is the input bit at position `PTABLE[i]`. -/
def permute (ptable : PTable) (b : Block) : Block := blockOfPositions fun i => pos b (ptable i)

/-- R60: the five steps. Step 3 mixes the left half with the substituted right half; the key is not
read (decision D2, R61). -/
def transform (sbox : SBox) (ptable : PTable) (b : Block) (_key : Key) : Block :=
  let left := highNibble b
  let right := lowNibble b
  let rightSub := substitute sbox right
  let mixed := left ^^^ rightSub
  let combined := joinNibbles mixed rightSub
  permute ptable combined

/-- R66. -/
def ecbEncrypt (sbox : SBox) (ptable : PTable) (bs : List Block) (key : Key) : List Block :=
  bs.map fun b => transform sbox ptable b key

/-- R67: the same function (R63: there is no inverse transform). -/
def ecbDecrypt (sbox : SBox) (ptable : PTable) (bs : List Block) (key : Key) : List Block :=
  bs.map fun b => transform sbox ptable b key

/-- R71: `previous` is the last argument; it chains on the OUTPUT. -/
def cbcEncrypt (sbox : SBox) (ptable : PTable) (bs : List Block) (key : Key) (iv : Block) : List Block :=
  match bs with
  | [] => []
  | b :: rest =>
    let c := transform sbox ptable (b ^^^ iv) key
    c :: cbcEncrypt sbox ptable rest key c

/-- R72: it chains on the INPUT ciphertext. -/
def cbcDecrypt (sbox : SBox) (ptable : PTable) (bs : List Block) (key : Key) (iv : Block) : List Block :=
  match bs with
  | [] => []
  | c :: rest => (transform sbox ptable c key ^^^ iv) :: cbcDecrypt sbox ptable rest key c

/-- R27: `substitution_sbox`. -/
def substitutionSbox (nibIn : HalfBlock) : HalfBlock := substitute Config.sbox nibIn

/-- R28: `permutation_bit_router`. -/
def permutationBitRouter (blkIn : Block) : Block := permute Config.ptable blkIn

/-- R29: `block_transform_sp`. -/
def blockTransformSp (blkIn : Block) (keyIn : Key) : Block :=
  transform Config.sbox Config.ptable blkIn keyIn

/-- R30: the `dir` input of `ecb_mode_controller`. -/
inductive EcbDir where
  | encrypt
  | decrypt
deriving DecidableEq, Repr

/-- R30: `ecb_mode_controller`; the forward transform for both directions (R63). -/
def ecbModeController (dir : EcbDir) (blkIn : Block) (keyIn : Key) : Block :=
  match dir with
  | .encrypt => blockTransformSp blkIn keyIn
  | .decrypt => blockTransformSp blkIn keyIn

/-- R31: the operation select of `cbc_mode_controller`. -/
inductive CbcOp where
  | enc
  | dec
  | load
deriving DecidableEq, Repr

/-- What `cbc_mode_controller` gives: a block where the operation produces one, and the next `CHAIN`. -/
structure CbcOutput where
  blkOut : Option Block
  chain : Block
deriving DecidableEq, Repr

/-- R31: `cbc_mode_controller` with `CHAIN` holding `chain`. LOAD produces no block (R73, R74 write no
`DOUT`). -/
def cbcModeController (op : CbcOp) (blkIn : Block) (keyIn : Key) (ivIn chain : Block) : CbcOutput :=
  match op with
  | .enc =>
    let c := blockTransformSp (blkIn ^^^ chain) keyIn
    ⟨some c, c⟩
  | .dec =>
    let d := blockTransformSp blkIn keyIn
    ⟨some (d ^^^ chain), blkIn⟩
  | .load => ⟨none, ivIn⟩

end Sys2Proof.Machine
end

