-- ==== Sys2Proof/Machine/State.lean ====
section
/-! DEFINITION. The state of the CORE (spec/10_state.md R17 to R25, R33), its inputs, its faults and its
refusals. Plain data. -/

namespace Sys2Proof.Machine

/-- A command between its acceptance and its completion (R103, R107). -/
structure InFlight where
  /-- the accepted command word -/
  word : CmdWord
  /-- rising edges until the completion edge, that edge included -/
  remaining : Nat
deriving DecidableEq, Repr

/-- The input pins at a rising edge of `clk` (R26). -/
structure Pins where
  rst : Bool
  cmdValid : Bool
  cmdWord : CmdWord
deriving DecidableEq, Repr

/-- What the host does: the three interactions of R97, and, below them, one rising edge of `clk` with
given input pins (R26, R103). -/
inductive HostMove where
  /-- R97 row 1: present the word, hold it until it is accepted, and wait until it completes. -/
  | command (w : CmdWord)
  /-- R97 row 2: read `dout`, `status` and `cmd_ready`. -/
  | read
  /-- R97 row 3: a reset pulse, `rst = 1` for at least one edge and then an edge with `rst = 0`. -/
  | reset
  /-- One rising edge of `clk` with these pins. -/
  | edge (p : Pins)
deriving DecidableEq, Repr

/-- The machine. The first six fields are the registers of spec/10_state.md section 3 and the command
index; the next two are what R103 needs between clock edges; the last three are the model's own. -/
structure State where
  /-- `KEY` (R17) -/
  key : BitVec 8
  /-- `IV` (R18) -/
  iv : BitVec 8
  /-- `CHAIN` (R19, R78) -/
  chain : BitVec 8
  /-- `DOUT` (R20) -/
  dout : BitVec 8
  /-- `STATUS` (R21): bit 0 `DV`, bit 1 `ERR`, bits 3:2 `ERRCODE`, bits 7:4 hardwired 0 -/
  status : BitVec 8
  /-- the command index `n` (R25), unbounded -/
  index : Nat
  /-- `cmd_ready` (R26, R33, R103) -/
  cmdReady : Bool
  /-- the command in progress, if any (R103, R107) -/
  inFlight : Option InFlight
  /-- the model's own: the word the host presented while `cmd_ready = 0` and must keep (R97, item I11) -/
  waiting : Option CmdWord
  /-- the model's own: rising edges counted, the argument of the free values of Config (log entry 3) -/
  edges : Nat
  /-- the model's own: the host's coming moves, first first (log entry 5) -/
  host : List HostMove
deriving DecidableEq, Repr

/-- The state after reset (R33, R99, R100): every register 0x00, index 0, idle and ready. -/
def State.reset : State where
  key := 0x00#8
  iv := 0x00#8
  chain := 0x00#8
  dout := 0x00#8
  status := 0x00#8
  index := 0
  cmdReady := true
  inFlight := none
  waiting := none
  edges := 0
  host := []

/-- Why the machine stops. -/
inductive Fault where
  /-- Item I8: a command reaches execution with `STATUS.ERRCODE = 3`, which R23 says is never produced.
  Raised by `execWord`. Safe: no state reached from reset has that code. -/
  | reservedErrCode
deriving DecidableEq, Repr

/-- Why the model has no next state. -/
inductive Refusal where
  /-- An instruction without a meaning: raised by no arm of this model. Safe. -/
  | notModelled (mnemonic : String)
  /-- Item I11: the host changed or dropped a command word it was presenting while `cmd_ready = 0`
  (R97); the spec gives the model no move for it. Raised by the host interface. Safe. -/
  | handshakeBroken
deriving DecidableEq, Repr

/-- One step's result for this machine. -/
abbrev Result := Host.Outcome State Fault Refusal

end Sys2Proof.Machine
end

