-- ==== Sys2Proof/Machine/Flags.lean ====
section
/-! DEFINITION. The fields of `STATUS` (spec/10_state.md R21) and every way a command writes them: the
result flag (R22), raising an error (R84, R87) and clearing it (R83). -/

namespace Sys2Proof.Machine

/-- R84: the errors the CORE raises. -/
inductive ErrorKind where
  /-- R85 -/
  | illegalCommand
  /-- R86 -/
  | domainError
deriving DecidableEq, Repr

/-- R84: the value written to `STATUS.ERRCODE`. -/
def ErrorKind.code : ErrorKind → BitVec 2
  | .illegalCommand => 1#2
  | .domainError => 2#2

/-- `STATUS.DV`, bit 0. -/
def statusDv (st : BitVec 8) : Bool := st.getLsbD 0

/-- `STATUS.ERR`, bit 1. -/
def statusErr (st : BitVec 8) : Bool := st.getLsbD 1

/-- `STATUS.ERRCODE`, bits 3:2. -/
def statusErrcode (st : BitVec 8) : BitVec 2 := st.extractLsb' 2 2

/-- R21: the register's value with these fields; bits 7:4 are hardwired 0 (R24). -/
def packStatus (dv err : Bool) (code : BitVec 2) : BitVec 8 :=
  0#4 ++ code ++ BitVec.ofBool err ++ BitVec.ofBool dv

/-- R22: `DV <- 1`. -/
def statusWithResult (st : BitVec 8) : BitVec 8 := packStatus true (statusErr st) (statusErrcode st)

/-- R87: `raise E` on the status. With `ERR = 1` already, nothing is written: the first code stays. -/
def statusWithError (st : BitVec 8) (e : ErrorKind) : BitVec 8 :=
  if statusErr st then st else packStatus (statusDv st) true e.code

/-- R83: `ERR <- 0`, `ERRCODE <- 0`. -/
def statusCleared (st : BitVec 8) : BitVec 8 := packStatus (statusDv st) false 0#2

/-- Read of `STATUS.DV`. -/
def State.dv (s : State) : Bool := statusDv s.status

/-- Read of `STATUS.ERR`. -/
def State.err (s : State) : Bool := statusErr s.status

/-- Read of `STATUS.ERRCODE`. -/
def State.errcode (s : State) : BitVec 2 := statusErrcode s.status

end Sys2Proof.Machine
end

