-- ==== Sys2Proof/Machine/Ops.lean ====
section
/-! DEFINITION. The named operations over the registers: each register's one write, writing a result,
raising an error (the CORE's whole exception entry, spec/60_exceptions.md R87, R91), clearing it (the
return, R92), discarding (R88), reset (R99) and the bookkeeping of the handshake (R103). -/

namespace Sys2Proof.Machine

/-- `KEY <- v` (R17). -/
def State.setKey (s : State) (v : BitVec 8) : State := { s with key := v }

/-- `IV <- v` (R18). -/
def State.setIv (s : State) (v : BitVec 8) : State := { s with iv := v }

/-- `CHAIN <- v` (R19). -/
def State.setChain (s : State) (v : BitVec 8) : State := { s with chain := v }

/-- The one write of `STATUS` (R21). -/
def State.setStatus (s : State) (v : BitVec 8) : State := { s with status := v }

/-- R20, R22: `DOUT <- r`, `STATUS.DV <- 1`, together (R38). -/
def State.writeResult (s : State) (r : BitVec 8) : State :=
  { s with dout := r, status := statusWithResult s.status }

/-- R87: `raise E`. Nothing but `ERR` and `ERRCODE` changes; no control transfer (R91). -/
def State.raise (s : State) (e : ErrorKind) : State := s.setStatus (statusWithError s.status e)

/-- R83, R92: the return from the error state. -/
def State.clearError (s : State) : State := s.setStatus (statusCleared s.status)

/-- R88, R89: a command other than CLRERR runs `body`, unless `STATUS.ERR = 1`: then it is discarded. -/
def runCommand (body : State → State) (s : State) : Result :=
  .next (if s.err then s else body s)

/-- R25, R103: the CORE accepts a word. The index counts it, and the host need hold it no longer. -/
def State.countCommand (s : State) : State := { s with index := s.index + 1, waiting := none }

/-- The model's edge counter advances (log entry 3). -/
def State.countEdge (s : State) : State := { s with edges := s.edges + 1 }

/-- R103: a command is in progress and `cmd_ready` is 0. -/
def State.busyWith (s : State) (f : InFlight) : State :=
  { s with inFlight := some f, cmdReady := false }

/-- R103: no command is in progress and `cmd_ready` is 1. -/
def State.becomeReady (s : State) : State := { s with inFlight := none, cmdReady := true }

/-- R97: the word the host presents while `cmd_ready = 0`, which it must keep. -/
def State.setWaiting (s : State) (offer : Option CmdWord) : State := { s with waiting := offer }

/-- The host's moves still to come (log entry 5). -/
def State.setHost (s : State) (moves : List HostMove) : State := { s with host := moves }

/-- R33, R99: every element of state at its reset value; `cmd_ready` is 0 while `rst = 1` and 1 after
the first edge with `rst = 0`. A command in progress is abandoned (R107). The model's edge counter and
the host's moves are not the CORE's, and stay. -/
def State.resetTo (s : State) (ready : Bool) : State :=
  { State.reset with cmdReady := ready, edges := s.edges, host := s.host }

/-- Carry on from a next state; a fault or a refusal stays. -/
def Result.andThen (o : Result) (f : State → Result) : Result :=
  match o with
  | .next s => f s
  | .fault r => .fault r
  | .refused r => .refused r

end Sys2Proof.Machine
end

