-- ==== Sys2Proof/Machine/BlockTransform.lean ====
section
/-! DEFINITION. XFORM (spec/42_block_transform.md). -/

namespace Sys2Proof.Machine

/-- R65. -/
def execXform (block : Block) (s : State) : Result :=
  runCommand (fun s => s.writeResult (blockTransformSp block s.key)) s

end Sys2Proof.Machine
end

