-- ==== Sys2Proof/Machine/Cbc.lean ====
section
/-! DEFINITION. LDIV, CBCRST, CBCE and CBCD (spec/44_cbc_mode.md). -/

namespace Sys2Proof.Machine

/-- The writes a `cbc_mode_controller` operation makes: `CHAIN`, and `DOUT` with `DV` where it produces a
block (R31, R38). -/
def State.takeCbc (s : State) (out : CbcOutput) : State :=
  match out.blkOut with
  | some b => (s.setChain out.chain).writeResult b
  | none => s.setChain out.chain

/-- R73: the LOAD operation with the operand as IV, which is stored too. -/
def execLdiv (iv : Block) (s : State) : Result :=
  runCommand (fun s => (s.setIv iv).takeCbc (cbcModeController .load iv s.key iv s.chain)) s

/-- R74: the LOAD operation with the stored IV. -/
def execCbcrst (s : State) : Result :=
  runCommand (fun s => s.takeCbc (cbcModeController .load 0x00#8 s.key s.iv s.chain)) s

/-- R75: the ENC operation. -/
def execCbce (block : Block) (s : State) : Result :=
  runCommand (fun s => s.takeCbc (cbcModeController .enc block s.key s.iv s.chain)) s

/-- R76: the DEC operation. -/
def execCbcd (block : Block) (s : State) : Result :=
  runCommand (fun s => s.takeCbc (cbcModeController .dec block s.key s.iv s.chain)) s

end Sys2Proof.Machine
end

