-- ==== Sys2Proof/Machine/Ecb.lean ====
section
/-! DEFINITION. ECBE and ECBD (spec/43_ecb_mode.md). -/

namespace Sys2Proof.Machine

/-- R68: `ecb_mode_controller` with `dir = 0`. -/
def execEcbe (block : Block) (s : State) : Result :=
  runCommand (fun s => s.writeResult (ecbModeController .encrypt block s.key)) s

/-- R69: `ecb_mode_controller` with `dir = 1`. -/
def execEcbd (block : Block) (s : State) : Result :=
  runCommand (fun s => s.writeResult (ecbModeController .decrypt block s.key)) s

end Sys2Proof.Machine
end

