-- ==== Sys2Proof/Machine/Permutation.lean ====
section
/-! DEFINITION. PERM (spec/41_permutation.md). -/

namespace Sys2Proof.Machine

/-- R59. -/
def execPerm (block : Block) (s : State) : Result :=
  runCommand (fun s => s.writeResult (permutationBitRouter block)) s

end Sys2Proof.Machine
end

