-- ==== Sys2Proof/Machine/Substitution.lean ====
section
/-! DEFINITION. SUB (spec/40_substitution.md). -/

namespace Sys2Proof.Machine

/-- R54: an operand outside `[0, 15]` raises DomainError (R86); the table is not looked up. -/
def execSub (data : BitVec 8) (s : State) : Result :=
  runCommand (fun s =>
    match halfBlockOperand data with
    | some v => s.writeResult (zext8 (substitutionSbox v))
    | none => s.raise .domainError) s

end Sys2Proof.Machine
end

