-- ==== Sys2Proof/Machine/System.lean ====
section
/-! DEFINITION. NOP, LDKEY and CLRERR (spec/45_system.md). -/

namespace Sys2Proof.Machine

/-- R81: no register is written. -/
def execNop (s : State) : Result := runCommand (fun s => s) s

/-- R82. -/
def execLdkey (key : Key) (s : State) : Result := runCommand (fun s => s.setKey key) s

/-- R83: the only command that executes while `STATUS.ERR = 1` (R88). -/
def execClrerr (s : State) : Result := .next s.clearError

end Sys2Proof.Machine
end

