-- ==== Sys2Proof/Machine/Dispatch.lean ====
section
/-! DEFINITION. The meaning of each command (spec/30_encoding.md R46, last column). -/

namespace Sys2Proof.Machine

def exec (i : Instr) (s : State) : Host.Outcome State Fault Refusal :=
  match i with
  | .nop => Sys2Proof.Machine.execNop s
  | .sub data => Sys2Proof.Machine.execSub data s
  | .perm block => Sys2Proof.Machine.execPerm block s
  | .xform block => Sys2Proof.Machine.execXform block s
  | .ecbe block => Sys2Proof.Machine.execEcbe block s
  | .ecbd block => Sys2Proof.Machine.execEcbd block s
  | .cbce block => Sys2Proof.Machine.execCbce block s
  | .cbcd block => Sys2Proof.Machine.execCbcd block s
  | .ldkey key => Sys2Proof.Machine.execLdkey key s
  | .ldiv iv => Sys2Proof.Machine.execLdiv iv s
  | .cbcrst => Sys2Proof.Machine.execCbcrst s
  | .clrerr => Sys2Proof.Machine.execClrerr s

end Sys2Proof.Machine
end

