-- ==== Sys2Proof/Machine/Interface.lean ====
section
/-! DEFINITION. The top-level interface: executing one accepted word (spec/60_exceptions.md R89), the
host's moves (R97), the valid/ready handshake at one clock edge (spec/70_reset_and_hazards.md R99, R103,
R105, R107) and the output ports (spec/10_state.md R26, R32). -/

namespace Sys2Proof.Machine

/-- R89 after the index: an illegal word raises IllegalCommand unless it is discarded (R88); a legal
word runs its command, which is discarded likewise (`runCommand`). The first line is item I8. -/
def execWord (w : CmdWord) (s : State) : Result :=
  if s.errcode = 3#2 then .fault .reservedErrCode
  else
    match decode w with
    | .legal i => exec i s
    | .illegal _ => runCommand (fun s => s.raise .illegalCommand) s

/-- R103: a command completes. It has left the machine ready, and all its writes take effect together
(R38). -/
def finishCommand (w : CmdWord) (s : State) : Result := execWord w s.becomeReady

/-- Does the host, presenting `offer` now, break its duty to keep the word it presented (R97, I11)? -/
def State.breaksDuty (s : State) (offer : Option CmdWord) : Bool :=
  match s.waiting with
  | none => false
  | some w => offer != some w

/-- Wait, presenting nothing new, until `cmd_ready = 1`: a command in progress completes (R103, R105). -/
def settle (s : State) : Result :=
  match s.inFlight with
  | some f => finishCommand f.word s
  | none => .next s.becomeReady

/-- R89, R97 row 1: the host presents `w` and holds it; the CORE accepts it when it is ready and
executes it. -/
def acceptCommand (w : CmdWord) (s : State) : Result :=
  if s.breaksDuty (some w) then .refused .handshakeBroken
  else Result.andThen (settle s) fun s => execWord w s.countCommand

/-- R96: no command is presented. The CORE is idle, ready and keeps all state. -/
def idle (s : State) : Result :=
  if s.breaksDuty none then .refused .handshakeBroken else settle s

/-- The word presented on the pins, if any. -/
def Pins.offer (p : Pins) : Option CmdWord := if p.cmdValid then some p.cmdWord else none

/-- R103, R105: acceptance at this edge. With `L = 1` the command completes at the same edge, else it is
in progress for `L - 1` more. -/
def beginCommand (w : CmdWord) (s : State) : Result :=
  let latency := Config.latency (CmdFields.ofWord w).op
  if latency = 1 then finishCommand w s.countCommand
  else .next (s.countCommand.busyWith ⟨w, latency - 1⟩)

/-- One rising edge of `clk` (R26): reset first (R99, R107); then the command in progress comes nearer to
its completion; else, when ready, a presented word is accepted; else the CORE becomes ready (R99). -/
def clockEdge (p : Pins) (s : State) : Result :=
  let s := s.countEdge
  if p.rst then .next (s.resetTo false)
  else if s.breaksDuty p.offer then .refused .handshakeBroken
  else
    match s.inFlight with
    | some f =>
      if f.remaining ≤ 1 then finishCommand f.word (s.setWaiting p.offer)
      else .next ((s.setWaiting p.offer).busyWith ⟨f.word, f.remaining - 1⟩)
    | none =>
      if s.cmdReady then
        match p.offer with
        | some w => beginCommand w s
        | none => .next s
      else .next (s.setWaiting p.offer).becomeReady

/-- R97: what each move of the host makes the CORE do. Reading has no side effect (R39). -/
def hostMove (m : HostMove) (s : State) : Result :=
  match m with
  | .command w => acceptCommand w s
  | .read => .next s
  | .reset => .next (s.resetTo true)
  | .edge p => clockEdge p s

/-- The host's next move is taken from its coming moves; with none, nothing is presented. -/
def hostStep (s : State) : Result :=
  match s.host with
  | [] => idle s
  | m :: rest => hostMove m (s.setHost rest)

/-- `s` with the word `w` as the very next one the CORE accepts: nothing in progress or waiting, and the
host about to present it (log entry 5). -/
def State.present (s : State) (w : CmdWord) : State :=
  (s.becomeReady.setWaiting none).setHost (.command w :: s.host)

/-- R26, R32: what the host can observe. -/
structure Outputs where
  cmdReady : Bool
  dout : BitVec 8
  status : BitVec 8
deriving DecidableEq, Repr

/-- R26: the output ports. Inside a command `dout` and `status` show any value (R98, item I7; log entry 3),
bits 7:4 of `status` too (DESIGN CHOICE, log entry 13). -/
def State.outputs (s : State) : Outputs :=
  match s.inFlight with
  | none => ⟨s.cmdReady, s.dout, s.status⟩
  | some _ => ⟨s.cmdReady, Config.doutInProgress s.edges, Config.statusInProgress s.edges⟩

/-- Several clock edges, in order. -/
def clockRun (ps : List Pins) (s : State) : Result :=
  match ps with
  | [] => .next s
  | p :: rest => Result.andThen (clockEdge p s) (clockRun rest)

end Sys2Proof.Machine
end

