-- ==== Sys2Proof/Machine/Asm.lean ====
section
/-! DEFINITION. The assembler's text (spec/30_encoding.md R51): one command a line, immediates in hex,
binary or decimal, `.word`, and comments from `;` to the end of the line. -/

namespace Sys2Proof.Machine

/-- The pieces of a text between characters that `cut` marks; empty pieces are dropped. `piece` holds
the piece under way, last character first. -/
def splitText (cut : Char → Bool) (piece : List Char) : List Char → List (List Char)
  | [] => if piece.isEmpty then [] else [piece.reverse]
  | c :: cs =>
    if cut c then
      if piece.isEmpty then splitText cut [] cs else piece.reverse :: splitText cut [] cs
    else splitText cut (c :: piece) cs

/-- White space inside a line. -/
def isSpace (c : Char) : Bool := c == ' ' || c == '\t' || c == '\r'

/-- The words of a line; a comment runs from `;` to its end. -/
def lineWords (line : List Char) : List (List Char) :=
  splitText isSpace [] (line.takeWhile (· != ';'))

/-- The value of a digit in a base up to 16; hex letters in either case. -/
def digitValue (base : Nat) (c : Char) : Option Nat :=
  let n := c.toNat
  let v :=
    if 48 ≤ n ∧ n ≤ 57 then n - 48
    else if 65 ≤ n ∧ n ≤ 70 then n - 55
    else if 97 ≤ n ∧ n ≤ 102 then n - 87
    else 16
  if v < base then some v else none

/-- The value of a numeral's digits, first digit most significant, after those worth `acc`. -/
def digitsValue (base acc : Nat) : List Char → Option Nat
  | [] => some acc
  | c :: cs =>
    match digitValue base c with
    | some v => digitsValue base (acc * base + v) cs
    | none => none

/-- A numeral has at least one digit. -/
def numeral (base : Nat) (ds : List Char) : Option Nat :=
  if ds.isEmpty then none else digitsValue base 0 ds

/-- R51: `imm` in hex `0xHH`, binary `0bBBBBBBBB` or decimal (log entry 7). -/
def immediate : List Char → Option Nat
  | '0' :: 'x' :: ds => numeral 16 ds
  | '0' :: 'b' :: ds => numeral 2 ds
  | ds => numeral 10 ds

/-- R51: the mnemonics written alone. -/
def bareCommand (m : List Char) : Option Instr :=
  if m = "NOP".toList then some .nop
  else if m = "CBCRST".toList then some .cbcrst
  else if m = "CLRERR".toList then some .clrerr
  else none

/-- R51: the mnemonics written with an immediate. -/
def immCommand (m : List Char) (imm : BitVec 8) : Option Instr :=
  if m = "SUB".toList then some (.sub imm)
  else if m = "PERM".toList then some (.perm imm)
  else if m = "XFORM".toList then some (.xform imm)
  else if m = "ECBE".toList then some (.ecbe imm)
  else if m = "ECBD".toList then some (.ecbd imm)
  else if m = "CBCE".toList then some (.cbce imm)
  else if m = "CBCD".toList then some (.cbcd imm)
  else if m = "LDKEY".toList then some (.ldkey imm)
  else if m = "LDIV".toList then some (.ldiv imm)
  else none

/-- R51: a word for an immediate in `[0, 255]`, and for SUB in `[0, 15]`; refused otherwise. -/
def assembleImm (m : List Char) (n : Nat) : Option CmdWord :=
  if n ≤ 255 then
    match immCommand m (BitVec.ofNat 8 n) with
    | some i => if i.assemblable then some (encode i) else none
    | none => none
  else none

/-- R51: `.word 0xHHHH` emits the raw word. -/
def rawWord : List Char → Option CmdWord
  | ['0', 'x', a, b, c, d] => (numeral 16 [a, b, c, d]).map (BitVec.ofNat 16)
  | _ => none

/-- The words a line emits (none for an empty line), or a refusal. -/
def assembleLine (line : List Char) : Option (List CmdWord) :=
  match lineWords line with
  | [] => some []
  | [m] => (bareCommand m).map fun i => [encode i]
  | [m, x] =>
    if m = ".word".toList then (rawWord x).map fun w => [w]
    else (immediate x).bind fun n => (assembleImm m n).map fun w => [w]
  | _ => none

/-- The words of a sequence of lines; one refused line refuses them all. -/
def assembleLines : List (List Char) → Option (List CmdWord)
  | [] => some []
  | line :: rest =>
    match assembleLine line, assembleLines rest with
    | some ws, some more => some (ws ++ more)
    | _, _ => none

/-- The words of a text of lines. -/
def assemble (text : String) : Option (List CmdWord) :=
  assembleLines (splitText (· == '\n') [] text.toList)

end Sys2Proof.Machine
end

