-- ==== Sys2Proof/Machine/Run.lean ====
section
/-! DEFINITION. Runs of command words and what is observed of them (spec/60_exceptions.md R98), and the
pseudo-instructions (spec/30_encoding.md R52). -/

namespace Sys2Proof.Machine

/-- R98: what a run shows after a command, `(DOUT, STATUS)`. -/
structure Observation where
  dout : BitVec 8
  status : BitVec 8
deriving DecidableEq, Repr

/-- What is observed when a command has completed. -/
def State.observe (s : State) : Observation := ⟨s.dout, s.status⟩

/-- How a run ends: the observations, one a command, and the last state. -/
inductive RunResult where
  | done (observed : List Observation) (last : State)
  | stopped
deriving DecidableEq, Repr

/-- R98: the words are accepted in order, each when the one before it has completed. -/
def runWords (ws : List CmdWord) (s : State) : RunResult :=
  match ws with
  | [] => .done [] s
  | w :: rest =>
    match acceptCommand w s with
    | .next t =>
      match runWords rest t with
      | .done os last => .done (t.observe :: os) last
      | .stopped => .stopped
    | .fault _ => .stopped
    | .refused _ => .stopped

/-- R52: `ECBENC key, bs`. -/
def ecbencWords (key : Key) (bs : List Block) : List CmdWord :=
  encode (.ldkey key) :: bs.map fun b => encode (.ecbe b)

/-- R52: `ECBDEC key, bs`. -/
def ecbdecWords (key : Key) (bs : List Block) : List CmdWord :=
  encode (.ldkey key) :: bs.map fun b => encode (.ecbd b)

/-- R52: `CBCENC key, iv, bs`. -/
def cbcencWords (key : Key) (iv : Block) (bs : List Block) : List CmdWord :=
  encode (.ldkey key) :: encode (.ldiv iv) :: bs.map fun b => encode (.cbce b)

/-- R52: `CBCDEC key, iv, bs`. -/
def cbcdecWords (key : Key) (iv : Block) (bs : List Block) : List CmdWord :=
  encode (.ldkey key) :: encode (.ldiv iv) :: bs.map fun b => encode (.cbcd b)

/-- R52: the result sequence, the `DOUT` values read after each block command; the first `setup`
commands are set-up. -/
def resultSequence (setup : Nat) (os : List Observation) : List Block := (os.drop setup).map (·.dout)

end Sys2Proof.Machine
end

