-- ==== Sys2Proof/Safety.lean ====
section
/-! DEFINITION. What statements about runs rely on: the legal states (spec/10_state.md R22, R23,
spec/70_reset_and_hazards.md R103, R105) and the states between commands. -/

namespace Sys2Proof.Machine

/-- R23, with R84: `STATUS[7:4] = 0`, `ERRCODE = 3` is never there, and `ERRCODE = 0` says there is no
error. -/
def State.StatusLegal (s : State) : Prop :=
  s.status.extractLsb' 4 4 = 0#4 ∧ s.errcode ≠ 3#2 ∧ (s.err = false ↔ s.errcode = 0#2)

/-- R22: while `DV = 0`, `DOUT` holds its reset value. -/
def State.DoutLegal (s : State) : Prop := s.dv = false → s.dout = 0x00#8

/-- R103, R105: inside a command `cmd_ready` is 0 and less than `LATENCY` edges are left; the command
has been counted (R25). -/
def State.HandshakeLegal (s : State) : Prop :=
  ∀ f, s.inFlight = some f →
    s.cmdReady = false ∧ 1 ≤ f.remaining ∧ f.remaining < Config.LATENCY ∧ 1 ≤ s.index

/-- The invariant of the machine. -/
def State.Legal (s : State) : Prop := s.StatusLegal ∧ s.DoutLegal ∧ s.HandshakeLegal

/-- Between commands: nothing is in progress and the host holds no word. -/
def State.Settled (s : State) : Prop := s.inFlight = none ∧ s.waiting = none

/-- The commands that write `DOUT` when they succeed (R20). -/
def WritesDout : Instr → Prop
  | .nop => False
  | .sub _ => True
  | .perm _ => True
  | .xform _ => True
  | .ecbe _ => True
  | .ecbd _ => True
  | .cbce _ => True
  | .cbcd _ => True
  | .ldkey _ => False
  | .ldiv _ => False
  | .cbcrst => False
  | .clrerr => False

/-- The commands that read or write `CHAIN` (R78). -/
def UsesChain : Instr → Prop
  | .nop => False
  | .sub _ => False
  | .perm _ => False
  | .xform _ => False
  | .ecbe _ => False
  | .ecbd _ => False
  | .cbce _ => True
  | .cbcd _ => True
  | .ldkey _ => False
  | .ldiv _ => True
  | .cbcrst => True
  | .clrerr => False

/-- Two words that are the same but for the operand of LDKEY (R82). -/
def SameButKey (w v : CmdWord) : Prop :=
  w = v ∨ ∃ k l, w = encode (.ldkey k) ∧ v = encode (.ldkey l)

/-- R62: `T(b)` with the reference table, bit by bit from bit 7 down, written without the model's
datapath. -/
def roundBits (sbox : SBox) (b : Block) : Block :=
  let s := sbox (b.extractLsb' 0 4)
  let m := b.extractLsb' 4 4 ^^^ s
  BitVec.ofBool (m.getLsbD 0) ++ BitVec.ofBool (m.getLsbD 3) ++ BitVec.ofBool (m.getLsbD 1) ++
    BitVec.ofBool (s.getLsbD 3) ++ BitVec.ofBool (s.getLsbD 1) ++ BitVec.ofBool (m.getLsbD 2) ++
    BitVec.ofBool (s.getLsbD 0) ++ BitVec.ofBool (s.getLsbD 2)

/-- R57: the inverse of the reference table. For statements only: the CORE has no inverse router. -/
def pinv : PTable
  | 0 => 1
  | 1 => 5
  | 2 => 2
  | 3 => 0
  | 4 => 3
  | 5 => 7
  | 6 => 4
  | 7 => 6

/-- The word the host's next move presents, if it presents one. -/
def State.offered (s : State) : Option CmdWord :=
  match s.host with
  | .command w :: _ => some w
  | .edge p :: _ => p.offer
  | _ => none

/-- Is the host's next move a reset (R97), as a pulse or at one edge? -/
def State.resetNext (s : State) : Bool :=
  match s.host with
  | .reset :: _ => true
  | .edge p :: _ => p.rst
  | _ => false

/-- R97: a host that presents a word at one of these edges presents the same word at the next. -/
def KeepsOffers (ps : List Pins) : Prop := ps.IsChain fun p q => p.offer = none ∨ q.offer = p.offer

/-- The observations of a run (R98), if it is not stopped. -/
def RunResult.observed? : RunResult → Option (List Observation)
  | .done os _ => some os
  | .stopped => none

end Sys2Proof.Machine
end

