-- ==== Sys2Proof/Certificates/Slice0/Obligations.lean ====
section
/-! DEFINITION. The statements for the provers. A status is written out bit by bit in the layout of
spec/10_state.md R21: reserved, `ERRCODE`, `ERR`, `DV`. -/

open Sys2Proof Sys2Proof.Machine

/-! ## Decoding and encoding -/

/-- Every command's word decodes to that command, with every operand at every value. -/
def Obligations.DecodeOfEncodeIsTheCommand : Prop := ∀ i : Instr, decode (encode i) = .legal i

/-- Each legal word is the word of the one command it decodes to. -/
def Obligations.EncodeOfDecodeIsTheWord : Prop :=
  ∀ (w : CmdWord) (i : Instr), decode w = .legal i → encode i = w

/-- R48 and R47, as R85 joins them: exactly these words are illegal, each executed as no command but
raising IllegalCommand (code 1) when `ERR = 0`. -/
def Obligations.IllegalWordsRaiseIllegalCommand : Prop :=
  ∀ w : CmdWord,
    ((∀ i, decode w ≠ .legal i) ↔
      0xC#4 ≤ w.extractLsb' 12 4 ∨ w.extractLsb' 8 4 ≠ 0#4 ∨
        ((w.extractLsb' 12 4 = 0x0#4 ∨ w.extractLsb' 12 4 = 0xA#4 ∨ w.extractLsb' 12 4 = 0xB#4) ∧
          w.extractLsb' 0 8 ≠ 0#8)) ∧
    ∀ s : State, (∀ i, decode w ≠ .legal i) → s.Settled → s.err = false → s.errcode ≠ 3#2 →
      acceptCommand w s =
        .next { s with
          index := s.index + 1
          cmdReady := true
          status := 0#4 ++ 1#2 ++ 1#1 ++ BitVec.ofBool s.dv }

/-- R49's count of the legal words. -/
def Obligations.LegalWordsAre2307 : Prop :=
  (List.range 65536).countP (fun n => isLegal (BitVec.ofNat 16 n)) = 9 * 256 + 3

/-- A few words, written out from R44 and R46, decode to the command they stand for. -/
def Obligations.WrittenWordsDecode : Prop :=
  decode 0x0000#16 = .legal .nop ∧ decode 0x100D#16 = .legal (.sub 0x0D#8) ∧
    decode 0x2059#16 = .legal (.perm 0x59#8) ∧ decode 0x30CD#16 = .legal (.xform 0xCD#8) ∧
    decode 0x6068#16 = .legal (.cbce 0x68#8) ∧ decode 0x90A5#16 = .legal (.ldiv 0xA5#8) ∧
    decode 0xB000#16 = .legal .clrerr ∧ decode 0x0001#16 = .illegal .operandField

/-- R51: `MNEMONIC imm` is `(OP << 12) | imm`, refused outside `[0, 255]`, and for SUB outside
`[0, 15]`. -/
def Obligations.AssemblerPlacesTheImmediate : Prop :=
  (∀ n : Nat,
    assembleImm "SUB".toList n = if n ≤ 15 then some (BitVec.ofNat 16 (0x1000 + n)) else none) ∧
  ∀ p ∈ [("PERM", 0x2), ("XFORM", 0x3), ("ECBE", 0x4), ("ECBD", 0x5), ("CBCE", 0x6), ("CBCD", 0x7),
      ("LDKEY", 0x8), ("LDIV", 0x9)],
    ∀ n : Nat, assembleImm p.1.toList n =
      if n ≤ 255 then some (BitVec.ofNat 16 (p.2 * 0x1000 + n)) else none

/-! ## Steps -/

/-- A step at whose state the host presents a legal word runs that word's instruction: the move is
taken, the index counts the word and the CORE is ready after it. -/
def Obligations.StepRunsTheDecodedInstruction : Prop :=
  ∀ (w : CmdWord) (i : Instr) (rest : List HostMove) (s : State),
    decode w = .legal i → s.host = .command w :: rest → s.Settled → s.errcode ≠ 3#2 →
      step s = exec i { s with host := rest, index := s.index + 1, cmdReady := true }

/-- R89: the step function of an accepted word, its checks in order. (`ERRCODE = 3` is never
produced, R23; at such a state the model stops, log entry 4.) -/
def Obligations.AcceptedWordFollowsTheStepFunction : Prop :=
  ∀ (w : CmdWord) (s n : State), s.Settled → s.errcode ≠ 3#2 →
    n = { s with index := s.index + 1, cmdReady := true } →
      acceptCommand w s =
        if s.err = true ∧ w ≠ 0xB000#16 then .next n
        else
          match decode w with
          | .illegal _ => .next { n with status := 0#4 ++ 1#2 ++ 1#1 ++ BitVec.ofBool s.dv }
          | .legal i =>
            if w.extractLsb' 12 4 = 0x1#4 ∧ w.extractLsb' 4 4 ≠ 0#4 then
              .next { n with status := 0#4 ++ 2#2 ++ 1#1 ++ BitVec.ofBool s.dv }
            else exec i n

/-- R88 for every command but CLRERR: while `ERR = 1` its instruction changes nothing. -/
def Obligations.CommandsAreDiscardedUnderAnError : Prop :=
  ∀ (i : Instr) (s : State), i ≠ .clrerr → s.err = true → exec i s = .next s

/-- The model's stop at a status the hardware never produces (item I8, log entry 4). -/
def Obligations.ReservedErrorCodeStops : Prop :=
  ∀ (w : CmdWord) (s : State), s.errcode = 3#2 → execWord w s = .fault .reservedErrCode

/-! ## The commands -/

/-- NOP changes no state, discarded or not. -/
def Obligations.NopChangesNothing : Prop := ∀ s : State, exec .nop s = .next s

/-- SUB: the zero-extended S-box entry, or DomainError when `DATA[7:4] != 0`; nothing else changes. -/
def Obligations.SubWritesTheEntryOrRaises : Prop :=
  Config.sbox 0xD#4 = 0x9#4 ∧
  ∀ (data : BitVec 8) (s : State), s.err = false →
    exec (.sub data) s =
      if data.extractLsb' 4 4 = 0#4 then
        .next { s with
          dout := 0#4 ++ Config.sbox (data.extractLsb' 0 4)
          status := 0#4 ++ s.errcode ++ 0#1 ++ 1#1 }
      else .next { s with status := 0#4 ++ 2#2 ++ 1#1 ++ BitVec.ofBool s.dv }

/-- PERM: the reference permutation, bit by bit (R56); nothing else changes. -/
def Obligations.PermWritesThePermutedBits : Prop :=
  ∀ (b : Block) (s : State), s.err = false →
    exec (.perm b) s =
      .next { s with
        dout := BitVec.ofBool (b.getLsbD 4) ++ BitVec.ofBool (b.getLsbD 7) ++
          BitVec.ofBool (b.getLsbD 5) ++ BitVec.ofBool (b.getLsbD 3) ++
          BitVec.ofBool (b.getLsbD 1) ++ BitVec.ofBool (b.getLsbD 6) ++
          BitVec.ofBool (b.getLsbD 0) ++ BitVec.ofBool (b.getLsbD 2)
        status := 0#4 ++ s.errcode ++ 0#1 ++ 1#1 }

/-- XFORM, ECBE and ECBD each write the round of R62 to `DOUT`; nothing else changes. -/
def Obligations.XformAndEcbWriteTheRound : Prop :=
  ∀ (b : Block) (s t : State), s.err = false →
    t = { s with dout := roundBits Config.sbox b, status := 0#4 ++ s.errcode ++ 0#1 ++ 1#1 } →
      exec (.xform b) s = .next t ∧ exec (.ecbe b) s = .next t ∧ exec (.ecbd b) s = .next t

/-- CBCE: the round of `DATA ^ CHAIN` goes to `DOUT` and to `CHAIN`; nothing else changes. -/
def Obligations.CbceChainsOnTheOutput : Prop :=
  ∀ (b : Block) (s : State), s.err = false →
    exec (.cbce b) s =
      .next { s with
        dout := roundBits Config.sbox (b ^^^ s.chain)
        chain := roundBits Config.sbox (b ^^^ s.chain)
        status := 0#4 ++ s.errcode ++ 0#1 ++ 1#1 }

/-- CBCD: the round of `DATA`, XORed with `CHAIN`, goes to `DOUT`, and `DATA` to `CHAIN`; nothing else
changes. -/
def Obligations.CbcdChainsOnTheInput : Prop :=
  ∀ (c : Block) (s : State), s.err = false →
    exec (.cbcd c) s =
      .next { s with
        dout := roundBits Config.sbox c ^^^ s.chain
        chain := c
        status := 0#4 ++ s.errcode ++ 0#1 ++ 1#1 }

/-- LDIV loads `IV` and `CHAIN`; nothing else changes. -/
def Obligations.LdivLoadsIvAndChain : Prop :=
  ∀ (v : Block) (s : State), s.err = false → exec (.ldiv v) s = .next { s with iv := v, chain := v }

/-- CBCRST loads `CHAIN` from `IV`; nothing else changes. -/
def Obligations.CbcrstReloadsChain : Prop :=
  ∀ s : State, s.err = false → exec .cbcrst s = .next { s with chain := s.iv }

/-- LDKEY loads `KEY`; nothing else changes. -/
def Obligations.LdkeyLoadsKey : Prop :=
  ∀ (k : Key) (s : State), s.err = false → exec (.ldkey k) s = .next { s with key := k }

/-- CLRERR clears `ERR` and `ERRCODE`, whatever `ERR` is; nothing else changes. -/
def Obligations.ClrerrClearsTheError : Prop :=
  ∀ s : State,
    exec .clrerr s = .next { s with status := 0#4 ++ 0#2 ++ 0#1 ++ BitVec.ofBool s.dv }

/-! ## Whole-machine rules -/

/-- R90: a command that raises an error changes `ERR` and `ERRCODE` and, of the registers, nothing
else. -/
def Obligations.ErrorsArePrecise : Prop :=
  ∀ (w : CmdWord) (s t : State), s.Settled → s.err = false → acceptCommand w s = .next t →
    t.err = true →
      (t.errcode = 1#2 ∨ t.errcode = 2#2) ∧
        t = { s with
          index := s.index + 1
          cmdReady := true
          status := 0#4 ++ t.errcode ++ 1#1 ++ BitVec.ofBool s.dv }

/-- R86: DomainError (code 2) is what the words 0x1010 to 0x10FF raise, and no other word does. -/
def Obligations.DomainErrorIsForTheseWords : Prop :=
  ∀ (w : CmdWord) (s t : State), s.Settled → s.err = false → s.errcode = 0#2 →
    acceptCommand w s = .next t → (t.errcode = 2#2 ↔ 0x1010#16 ≤ w ∧ w ≤ 0x10FF#16)

/-- R92. First: with `ERR = 1`, a step keeps `ERR` and the first `ERRCODE`, or it presents the word 0xB000
or is a reset, and both are then 0. (The step starts between commands, or inside any command but 0xB000,
and the host may hold a word.) Second: an edge inside a command ends the error exactly when it is a
reset or completes the word 0xB000. Third: a host that waits, or presents a word until it completes,
lets a 0xB000 in progress clear the error first. -/
def Obligations.ErrorEndsByClrerrOrReset : Prop :=
  (∀ s t : State, (∀ f, s.inFlight = some f → f.word ≠ 0xB000#16) → s.err = true →
    step s = .next t →
      (t.err = true ∧ t.errcode = s.errcode) ∨
        ((s.offered = some 0xB000#16 ∨ s.resetNext = true) ∧ t.err = false ∧ t.errcode = 0#2)) ∧
  (∀ (p : Pins) (s t : State) (f : InFlight), s.inFlight = some f → s.err = true →
    clockEdge p s = .next t →
      if p.rst = true ∨ (f.remaining ≤ 1 ∧ f.word = 0xB000#16) then t.err = false ∧ t.errcode = 0#2
      else t.err = true ∧ t.errcode = s.errcode) ∧
  ∀ (s : State) (f : InFlight), s.inFlight = some f → f.word = 0xB000#16 → s.errcode ≠ 3#2 →
    (s.host = [] ∨ ∃ w rest, s.host = .command w :: rest) →
      step s = step { s with
        inFlight := none
        cmdReady := true
        status := 0#4 ++ 0#2 ++ 0#1 ++ BitVec.ofBool s.dv }

/-- R78: a command other than LDIV, CBCRST, CBCE and CBCD neither reads nor writes `CHAIN`. -/
def Obligations.OnlyCbcCommandsUseChain : Prop :=
  ∀ (i : Instr) (s t : State) (c : Block), ¬ UsesChain i → exec i s = .next t →
    t.chain = s.chain ∧ exec i { s with chain := c } = .next { t with chain := c }

/-- R18 and R17: a command other than LDIV and CBCRST neither reads nor writes `IV`; a command other
than LDKEY does not write `KEY`, and nothing it does depends on `KEY`. -/
def Obligations.OnlyTheirCommandsUseIvAndKey : Prop :=
  ∀ (i : Instr) (s t : State) (v : Block) (k : Key), exec i s = .next t →
    ((∀ x, i ≠ .ldiv x) → i ≠ .cbcrst →
      t.iv = s.iv ∧ exec i { s with iv := v } = .next { t with iv := v }) ∧
    ((∀ x, i ≠ .ldkey x) →
      t.key = s.key ∧ exec i { s with key := k } = .next { t with key := k })

/-- R20, R22: only the seven result commands write `DOUT`; one that ends with `ERR = 0` sets `DV`; no
command clears `DV`; with `ERR = 1` at its end no command has changed `DOUT` or `DV`. -/
def Obligations.OnlyResultsWriteDoutAndDv : Prop :=
  ∀ (i : Instr) (s t : State), exec i s = .next t →
    (¬ WritesDout i → t.dout = s.dout ∧ t.dv = s.dv) ∧
    (WritesDout i → t.err = false → t.dv = true) ∧
    (t.err = true → t.dout = s.dout ∧ t.dv = s.dv) ∧
    (s.dv = true → t.dv = true)

/-- The legal states (R22, R23, R103): every step from one gives one. -/
def Obligations.EveryStepKeepsTheLegalStates : Prop :=
  ∀ s t : State, s.Legal → step s = .next t → t.Legal

/-- The state after reset is legal. -/
def Obligations.ResetIsLegal : Prop := State.reset.Legal

/-- Every command word a host presents by its duties is accepted, counted once and completed: the CORE
never hangs on a command word (R98, R25). -/
def Obligations.EveryAcceptedCommandCompletes : Prop :=
  ∀ (w : CmdWord) (s : State), s.Legal → (s.waiting = none ∨ s.waiting = some w) →
    ∃ t, acceptCommand w s = .next t ∧ t.index = s.index + 1 ∧ t.inFlight = none ∧
      t.cmdReady = true ∧ t.waiting = none

/-! ## Reset and the handshake -/

/-- R33: the values after reset. -/
def Obligations.ResetValues : Prop :=
  State.reset.key = 0x00#8 ∧ State.reset.iv = 0x00#8 ∧ State.reset.chain = 0x00#8 ∧
    State.reset.dout = 0x00#8 ∧ State.reset.status = 0x00#8 ∧ State.reset.index = 0 ∧
    State.reset.cmdReady = true

/-- R99, R107: an edge with `rst = 1` sets every element to its reset value from any state, a command in
progress included, with `cmd_ready = 0` and nothing accepted; the next edge with `rst = 0` accepts
nothing either and makes `cmd_ready` 1. (`edges`, `host` and `waiting` are the model's own: log entries
3, 5 and 6.) -/
def Obligations.ResetEdgeSetsEveryElement : Prop :=
  ∀ (p q : Pins) (s : State), p.rst = true → q.rst = false →
    ∃ t, clockEdge p s = .next t ∧
      t = { State.reset with cmdReady := false, edges := s.edges + 1, host := s.host } ∧
      ∃ u, clockEdge q t = .next u ∧ u = { t with
        cmdReady := true, edges := t.edges + 1, waiting := q.offer }

/-- R97 row 3: the host's reset pulse leaves the values of R33, and the CORE ready, from any state. -/
def Obligations.ResetPulseRestoresTheResetState : Prop :=
  ∀ (s : State) (rest : List HostMove), s.host = .reset :: rest →
    step s = .next { State.reset with edges := s.edges, host := rest }

/-- R105: a command's cycles are never zero and never more than `LATENCY >= 1`. -/
def Obligations.LatencyIsWithinItsBounds : Prop :=
  1 ≤ Config.LATENCY ∧
    ∀ op : BitVec 4, 1 ≤ Config.latency op ∧ Config.latency op ≤ Config.LATENCY

/-- R103: the clock and the step agree. A word presented to a ready CORE at an edge is, after `L` edges
counted from that one, executed as the step executes it, whatever the host presents and keeps meanwhile
(R97); at the end the host still holds that offer. That `L` is one number for each opcode is the model's
choice, log entry 2. -/
def Obligations.ClockEdgesExecuteTheCommand : Prop :=
  ∀ (w : CmdWord) (later : List Pins) (s : State), s.inFlight = none → s.cmdReady = true →
    (s.waiting = none ∨ s.waiting = some w) →
    later.length + 1 = Config.latency (w.extractLsb' 12 4) →
    (∀ p ∈ later, p.rst = false) → KeepsOffers later →
      clockRun (⟨false, true, w⟩ :: later) s =
        Result.andThen
          (acceptCommand w { s with edges := s.edges + Config.latency (w.extractLsb' 12 4) })
          fun t => .next { t with waiting := later.getLast?.bind Pins.offer }

/-- R103, R38: inside a command an edge changes no register and not the index, `cmd_ready` is 0 and
the completion is one edge nearer. (What the ports `dout` and `status` show then is log entry 3.) -/
def Obligations.RegistersKeepInsideACommand : Prop :=
  ∀ (p : Pins) (s : State) (f : InFlight), p.rst = false → s.inFlight = some f → 1 < f.remaining →
    (s.waiting = none ∨ s.waiting = p.offer) →
      clockEdge p s = .next { s with
        edges := s.edges + 1
        cmdReady := false
        waiting := p.offer
        inFlight := some ⟨f.word, f.remaining - 1⟩ }

/-- R103: a word held from inside a command until the CORE is ready is neither lost nor accepted twice.
At the completion edge the command in progress has its effect and the held word none (`t`); the next
edge takes the held word and counts it once (`u`), as it takes a word nobody held: with `L = 1` it is
executed there, else it is in progress for `L - 1` edges more. (One `L` for each opcode: log entry 2.) -/
def Obligations.HeldWordIsTakenOnce : Prop :=
  ∀ (w : CmdWord) (s : State) (f : InFlight), s.StatusLegal → s.inFlight = some f →
    1 ≤ f.remaining → (s.waiting = none ∨ s.waiting = some w) →
      ∃ t u, clockRun (List.replicate f.remaining ⟨false, true, w⟩) s = .next t ∧
        execWord f.word { s with
          edges := s.edges + f.remaining
          cmdReady := true
          inFlight := none
          waiting := some w } = .next t ∧
        t.index = s.index ∧ t.waiting = some w ∧ t.inFlight = none ∧ t.cmdReady = true ∧
        clockEdge ⟨false, true, w⟩ t = .next u ∧
        clockEdge ⟨false, true, w⟩ { t with waiting := none } = .next u ∧
        u.index = s.index + 1 ∧ u.waiting = none ∧
        if Config.latency (w.extractLsb' 12 4) = 1 then
          acceptCommand w { t with edges := t.edges + 1, waiting := none } = .next u
        else
          u = { t with
            edges := t.edges + 1
            index := t.index + 1
            waiting := none
            cmdReady := false
            inFlight := some ⟨w, Config.latency (w.extractLsb' 12 4) - 1⟩ }

/-- A host that changes or drops the word it presents before it is accepted has no move in the model
(R97, item I11; log entry 6). -/
def Obligations.BrokenHandshakeIsRefused : Prop :=
  ∀ (p : Pins) (w : CmdWord) (s : State), p.rst = false → s.waiting = some w → p.offer ≠ some w →
    clockEdge p s = .refused .handshakeBroken

/-- R96, R39: idle and reading change no state. -/
def Obligations.IdleAndReadingChangeNothing : Prop :=
  ∀ (s : State) (rest : List HostMove),
    (s.Settled → s.host = [] → step s = .next { s with cmdReady := true }) ∧
    (s.host = .read :: rest → step s = .next { s with host := rest })

/-- R26, R32: between commands the ports show the registers. -/
def Obligations.PortsShowTheRegisters : Prop :=
  ∀ s : State, s.Settled → s.outputs = ⟨s.cmdReady, s.dout, s.status⟩

/-! ## The functions -/

/-- R55, for every table: the output bit at position `i` is the input bit at position `PTABLE[i]`. -/
def Obligations.PermuteTakesEachSourcePosition : Prop :=
  ∀ (pt : PTable) (b : Block) (i : Fin 8),
    (permute pt b).getLsbD (7 - i.val) = b.getLsbD (7 - (pt i).val)

/-- R58: any table has its `permute`, by R55; it is a bijection exactly when the table is a permutation,
as the reference table is. -/
def Obligations.PermuteIsBijectiveIffTheTableIs : Prop :=
  (∀ pt : PTable, Function.Bijective (permute pt) ↔ Function.Bijective pt) ∧
  (∀ (pt : PTable) (b : Block) (i j : Fin 8), pt i = pt j →
    (permute pt b).getLsbD (7 - i.val) = (permute pt b).getLsbD (7 - j.val)) ∧
  (∀ (pt : PTable) (b c : Block), (∀ i, b.getLsbD (7 - (pt i).val) = c.getLsbD (7 - (pt i).val)) →
    permute pt b = permute pt c) ∧
  Function.Bijective (permute Config.ptable)

/-- R57: the inverse table, position 2 and the cycle of the other seven, the seventh iterate and no
smaller one, and the four fixed points. -/
def Obligations.ReferencePermutationFacts : Prop :=
  (Config.ptable 2 = 2 ∧
    ∀ i j : Fin 8, i ≠ 2 → j ≠ 2 → ∃ n : Fin 7, Config.ptable^[n.val] i = j) ∧
  (∀ b : Block, permute pinv (permute Config.ptable b) = b) ∧
  (∀ n : Nat, 0 < n → n ≤ 7 →
    ((∀ b : Block, (permute Config.ptable)^[n] b = b) ↔ n = 7)) ∧
  ∀ b : Block, permute Config.ptable b = b ↔ b = 0x00#8 ∨ b = 0x20#8 ∨ b = 0xDF#8 ∨ b = 0xFF#8

/-- R62 (and R61: the key is not in it), for every S-box. -/
def Obligations.TransformIsTheRoundForEveryKey : Prop :=
  ∀ (sbox : SBox) (b : Block) (k : Key), transform sbox Config.ptable b k = roundBits sbox b

/-- R64: `T` is a bijection exactly when both tables are permutations. -/
def Obligations.TransformIsBijectiveIffTheTablesAre : Prop :=
  ∀ (sbox : SBox) (pt : PTable) (k : Key),
    Function.Bijective (fun b => transform sbox pt b k) ↔
      SboxIsPerm sbox ∧ Function.Bijective pt

/-- R64: `T` is not its own inverse, whatever the open entries of the S-box are. -/
def Obligations.TransformIsNotItsOwnInverse : Prop :=
  ∀ (sbox : SBox) (k : Key), sbox 0xD#4 = 0x9#4 →
    transform sbox Config.ptable 0xCD#8 k = 0x96#8 ∧
      transform sbox Config.ptable (transform sbox Config.ptable 0xCD#8 k) k ≠ 0xCD#8

/-! ## Sequences -/

/-- R70: the runs of `ECBENC` and `ECBDEC` give `ecbEncrypt` and `ecbDecrypt`. -/
def Obligations.EcbRunsComputeTheSequence : Prop :=
  ∀ (key : Key) (bs : List Block) (s : State), s.Settled → s.err = false → s.errcode ≠ 3#2 →
    (∃ os t, runWords (ecbencWords key bs) s = .done os t ∧
      resultSequence 1 os = ecbEncrypt Config.sbox Config.ptable bs key ∧
      t.key = key ∧ (bs ≠ [] → t.dv = true) ∧ t.iv = s.iv ∧ t.chain = s.chain) ∧
    (∃ os t, runWords (ecbdecWords key bs) s = .done os t ∧
      resultSequence 1 os = ecbDecrypt Config.sbox Config.ptable bs key ∧
      t.key = key ∧ (bs ≠ [] → t.dv = true) ∧ t.iv = s.iv ∧ t.chain = s.chain)

/-- R77: the runs of `CBCENC` and `CBCDEC` give `cbcEncrypt` and `cbcDecrypt`, and where `CHAIN` ends. -/
def Obligations.CbcRunsComputeTheSequence : Prop :=
  ∀ (key : Key) (iv : Block) (bs : List Block) (s : State), s.Settled → s.err = false →
    s.errcode ≠ 3#2 →
    (∃ os t, runWords (cbcencWords key iv bs) s = .done os t ∧
      resultSequence 2 os = cbcEncrypt Config.sbox Config.ptable bs key iv ∧
      t.chain = (cbcEncrypt Config.sbox Config.ptable bs key iv).getLastD iv ∧
      t.key = key ∧ t.iv = iv) ∧
    (∃ os t, runWords (cbcdecWords key iv bs) s = .done os t ∧
      resultSequence 2 os = cbcDecrypt Config.sbox Config.ptable bs key iv ∧
      t.chain = bs.getLastD iv ∧ t.key = key ∧ t.iv = iv)

/-- R79: an output of `cbcEncrypt` depends on no later block. -/
def Obligations.CbcEncryptionLooksOnlyBack : Prop :=
  ∀ (sbox : SBox) (pt : PTable) (bs cs : List Block) (key : Key) (iv : Block),
    (cbcEncrypt sbox pt (bs ++ cs) key iv).take bs.length = cbcEncrypt sbox pt bs key iv

/-- R79: when `SBOX_IS_PERM` holds, changing one block changes its ciphertext and every later one, and
none before it. -/
def Obligations.CbcEncryptionSpreadsAChange : Prop :=
  ∀ (sbox : SBox) (before after : List Block) (b c : Block) (key : Key) (iv : Block),
    SboxIsPerm sbox → b ≠ c →
      ∀ j : Nat, j < before.length + 1 + after.length →
        ((cbcEncrypt sbox Config.ptable (before ++ b :: after) key iv)[j]? =
            (cbcEncrypt sbox Config.ptable (before ++ c :: after) key iv)[j]? ↔
          j < before.length)

/-- R79: an output of `cbcDecrypt` depends only on its own ciphertext and the one before it, or the IV. -/
def Obligations.CbcDecryptionIsLocal : Prop :=
  ∀ (sbox : SBox) (pt : PTable) (cs : List Block) (key : Key) (iv : Block),
    cbcDecrypt sbox pt cs key iv =
      List.zipWith (fun c previous => transform sbox pt c key ^^^ previous) cs (iv :: cs)

/-- R80: the round trip gives the plaintext back exactly when every chained input is a fixed point of
`T` applied twice. -/
def Obligations.CbcRoundTripExactlyAtFixedPoints : Prop :=
  ∀ (sbox : SBox) (pt : PTable) (bs cs : List Block) (key : Key) (iv : Block),
    cs = cbcEncrypt sbox pt bs key iv →
      (cbcDecrypt sbox pt cs key iv = bs ↔
        ∀ x ∈ List.zipWith (fun b previous => b ^^^ previous) bs (iv :: cs),
          transform sbox pt (transform sbox pt x key) key = x)

/-- R82: two streams that differ only in the operands of LDKEY give the same `DOUT` and `STATUS`
after every command, from states that differ only in `KEY`. -/
def Obligations.KeysAreNeverObservable : Prop :=
  ∀ (ws vs : List CmdWord) (s : State) (k : Key), s.Settled → List.Forall₂ SameButKey ws vs →
    (runWords ws s).observed? = (runWords vs { s with key := k }).observed?
end

