-- ==== Sys2Proof/Laws/Datapath.lean ====
section
/-! SUPPORT. The bit operations of the datapath, once each. -/

namespace Sys2Proof.Machine

@[simp] theorem highNibble_join (m v : HalfBlock) : highNibble (joinNibbles m v) = m := by
  revert m v; decide

@[simp] theorem lowNibble_join (m v : HalfBlock) : lowNibble (joinNibbles m v) = v := by
  revert m v; decide

@[simp] theorem join_nibbles (b : Block) : joinNibbles (highNibble b) (lowNibble b) = b := by
  revert b; decide

theorem eight_bits_at_positions (x₀ x₁ x₂ x₃ x₄ x₅ x₆ x₇ : Bool) (i : Fin 8) :
    (BitVec.ofBool x₀ ++ BitVec.ofBool x₁ ++ BitVec.ofBool x₂ ++ BitVec.ofBool x₃ ++
      BitVec.ofBool x₄ ++ BitVec.ofBool x₅ ++ BitVec.ofBool x₆ ++ BitVec.ofBool x₇).getLsbD (7 - i.val) =
      ![x₀, x₁, x₂, x₃, x₄, x₅, x₆, x₇] i := by
  revert i x₀ x₁ x₂ x₃ x₄ x₅ x₆ x₇; decide

/-- R11: the bit at a position of the Block made of given bits. -/
@[simp] theorem pos_blockOfPositions (f : Fin 8 → Bool) (i : Fin 8) :
    pos (blockOfPositions f) i = f i := by
  unfold pos blockOfPositions
  refine (eight_bits_at_positions (f 0) (f 1) (f 2) (f 3) (f 4) (f 5) (f 6) (f 7) i).trans ?_
  fin_cases i <;> rfl

/-- Two Blocks with the same bit at every position are equal. -/
theorem block_ext (a b : Block) (h : ∀ i, pos a i = pos b i) : a = b := by
  refine BitVec.eq_of_getLsbD_eq fun k hk => ?_
  have := h ⟨7 - k, by omega⟩
  simpa [pos, show 7 - (7 - k) = k by omega] using this

/-- The Block made of a Block's own bits. -/
@[simp] theorem blockOfPositions_pos (b : Block) : blockOfPositions (pos b) = b :=
  block_ext _ _ fun i => pos_blockOfPositions _ i

@[simp] theorem ecbModeController_eq (d : EcbDir) (b : Block) (k : Key) :
    ecbModeController d b k = transform Config.sbox Config.ptable b k := by
  cases d <;> rfl

/-- R45: when SUB's operand is a HalfBlock. -/
theorem halfBlockOperand_cases (data : BitVec 8) :
    (highNibble data = 0#4 ∧ halfBlockOperand data = some (lowNibble data)) ∨
      (highNibble data ≠ 0#4 ∧ halfBlockOperand data = none) := by
  unfold halfBlockOperand
  split
  · exact .inl ⟨‹_›, rfl⟩
  · exact .inr ⟨‹_›, rfl⟩

end Sys2Proof.Machine
end

