-- ==== Sys2Proof/Laws/Decode.lean ====
section
/-! SUPPORT. The fields of a word, and what the decoder can answer. -/

namespace Sys2Proof

@[simp] theorem CmdFields.ofWord_toWord (f : CmdFields) : CmdFields.ofWord f.toWord = f := by
  obtain ⟨op, rsv, data⟩ := f
  simp only [CmdFields.ofWord, CmdFields.toWord, CmdFields.mk.injEq]
  refine ⟨?_, ?_, ?_⟩ <;> ext i hi <;>
    simp only [BitVec.getElem_extractLsb', BitVec.getLsbD_append]
  · rw [if_neg (by omega), if_neg (by omega), ← BitVec.getLsbD_eq_getElem]; congr 1; omega
  · rw [if_neg (by omega), if_pos (by omega), ← BitVec.getLsbD_eq_getElem]; congr 1; omega
  · rw [if_pos (by omega), ← BitVec.getLsbD_eq_getElem]; congr 1; omega

@[simp] theorem CmdFields.toWord_ofWord (w : CmdWord) : (CmdFields.ofWord w).toWord = w := by
  simp only [CmdFields.ofWord, CmdFields.toWord]
  ext i hi
  simp only [BitVec.getElem_append]
  split
  · simp [BitVec.getLsbD_eq_getElem hi]
  · split <;> simp <;> rw [← BitVec.getLsbD_eq_getElem hi] <;> congr 1 <;> omega

/-- The fields of the word of a command. -/
@[simp] theorem CmdFields.ofWord_encode (i : Instr) : CmdFields.ofWord (encode i) = encodeFields i := by
  simp [encode]

/-- When the checks of R49 find nothing wrong. -/
theorem CmdFields.fault?_eq_none (f : CmdFields) :
    f.fault? = none ↔
      ¬ 0xC#4 ≤ f.op ∧ f.rsv = 0#4 ∧ (takesNoOperand f.op = true → f.data = 0x00#8) := by
  unfold CmdFields.fault?
  split
  · simp [*]
  · split
    · simp [*]
    · split <;> simp_all

/-- Below 0xC every opcode names a command. -/
theorem commandOf_legal (op : BitVec 4) (data : BitVec 8) (h : ¬ 0xC#4 ≤ op) :
    ∃ i, commandOf op data = .legal i := by
  have : op.toNat < 12 := by simpa [BitVec.le_def] using h
  unfold commandOf
  interval_cases op.toNat <;> exact ⟨_, rfl⟩

/-- What the decoder can answer (R49). -/
theorem decode_cases (w : CmdWord) :
    (∃ why, (CmdFields.ofWord w).fault? = some why ∧ decode w = .illegal why) ∨
      (∃ i, (CmdFields.ofWord w).fault? = none ∧ decode w = .legal i ∧
        commandOf (CmdFields.ofWord w).op (CmdFields.ofWord w).data = .legal i) := by
  unfold decode
  cases h : (CmdFields.ofWord w).fault? with
  | some why => exact .inl ⟨why, rfl, rfl⟩
  | none =>
    have hop : ¬ 0xC#4 ≤ (CmdFields.ofWord w).op := by
      intro hc
      simp [CmdFields.fault?, hc] at h
    obtain ⟨i, hi⟩ := commandOf_legal _ (CmdFields.ofWord w).data hop
    exact .inr ⟨i, rfl, hi, hi⟩

end Sys2Proof
end

