-- ==== Sys2Proof/Laws/State.lean ====
section
/-! SUPPORT. One lemma per field per update of the state, each true by `rfl`. -/

namespace Sys2Proof.Machine

@[simp] theorem State.setKey_key (s : State) (v : BitVec 8) : (s.setKey v).key = v := rfl
@[simp] theorem State.setKey_iv (s : State) (v : BitVec 8) : (s.setKey v).iv = s.iv := rfl
@[simp] theorem State.setKey_chain (s : State) (v : BitVec 8) : (s.setKey v).chain = s.chain := rfl
@[simp] theorem State.setKey_dout (s : State) (v : BitVec 8) : (s.setKey v).dout = s.dout := rfl
@[simp] theorem State.setKey_status (s : State) (v : BitVec 8) :
    (s.setKey v).status = s.status := rfl
@[simp] theorem State.setKey_index (s : State) (v : BitVec 8) : (s.setKey v).index = s.index := rfl
@[simp] theorem State.setKey_cmdReady (s : State) (v : BitVec 8) :
    (s.setKey v).cmdReady = s.cmdReady := rfl
@[simp] theorem State.setKey_inFlight (s : State) (v : BitVec 8) :
    (s.setKey v).inFlight = s.inFlight := rfl
@[simp] theorem State.setKey_waiting (s : State) (v : BitVec 8) :
    (s.setKey v).waiting = s.waiting := rfl
@[simp] theorem State.setKey_edges (s : State) (v : BitVec 8) : (s.setKey v).edges = s.edges := rfl
@[simp] theorem State.setKey_host (s : State) (v : BitVec 8) : (s.setKey v).host = s.host := rfl

@[simp] theorem State.setIv_key (s : State) (v : BitVec 8) : (s.setIv v).key = s.key := rfl
@[simp] theorem State.setIv_iv (s : State) (v : BitVec 8) : (s.setIv v).iv = v := rfl
@[simp] theorem State.setIv_chain (s : State) (v : BitVec 8) : (s.setIv v).chain = s.chain := rfl
@[simp] theorem State.setIv_dout (s : State) (v : BitVec 8) : (s.setIv v).dout = s.dout := rfl
@[simp] theorem State.setIv_status (s : State) (v : BitVec 8) : (s.setIv v).status = s.status := rfl
@[simp] theorem State.setIv_index (s : State) (v : BitVec 8) : (s.setIv v).index = s.index := rfl
@[simp] theorem State.setIv_cmdReady (s : State) (v : BitVec 8) :
    (s.setIv v).cmdReady = s.cmdReady := rfl
@[simp] theorem State.setIv_inFlight (s : State) (v : BitVec 8) :
    (s.setIv v).inFlight = s.inFlight := rfl
@[simp] theorem State.setIv_waiting (s : State) (v : BitVec 8) :
    (s.setIv v).waiting = s.waiting := rfl
@[simp] theorem State.setIv_edges (s : State) (v : BitVec 8) : (s.setIv v).edges = s.edges := rfl
@[simp] theorem State.setIv_host (s : State) (v : BitVec 8) : (s.setIv v).host = s.host := rfl

@[simp] theorem State.setChain_key (s : State) (v : BitVec 8) : (s.setChain v).key = s.key := rfl
@[simp] theorem State.setChain_iv (s : State) (v : BitVec 8) : (s.setChain v).iv = s.iv := rfl
@[simp] theorem State.setChain_chain (s : State) (v : BitVec 8) : (s.setChain v).chain = v := rfl
@[simp] theorem State.setChain_dout (s : State) (v : BitVec 8) : (s.setChain v).dout = s.dout := rfl
@[simp] theorem State.setChain_status (s : State) (v : BitVec 8) :
    (s.setChain v).status = s.status := rfl
@[simp] theorem State.setChain_index (s : State) (v : BitVec 8) :
    (s.setChain v).index = s.index := rfl
@[simp] theorem State.setChain_cmdReady (s : State) (v : BitVec 8) :
    (s.setChain v).cmdReady = s.cmdReady := rfl
@[simp] theorem State.setChain_inFlight (s : State) (v : BitVec 8) :
    (s.setChain v).inFlight = s.inFlight := rfl
@[simp] theorem State.setChain_waiting (s : State) (v : BitVec 8) :
    (s.setChain v).waiting = s.waiting := rfl
@[simp] theorem State.setChain_edges (s : State) (v : BitVec 8) :
    (s.setChain v).edges = s.edges := rfl
@[simp] theorem State.setChain_host (s : State) (v : BitVec 8) : (s.setChain v).host = s.host := rfl

@[simp] theorem State.setStatus_key (s : State) (v : BitVec 8) : (s.setStatus v).key = s.key := rfl
@[simp] theorem State.setStatus_iv (s : State) (v : BitVec 8) : (s.setStatus v).iv = s.iv := rfl
@[simp] theorem State.setStatus_chain (s : State) (v : BitVec 8) :
    (s.setStatus v).chain = s.chain := rfl
@[simp] theorem State.setStatus_dout (s : State) (v : BitVec 8) :
    (s.setStatus v).dout = s.dout := rfl
@[simp] theorem State.setStatus_status (s : State) (v : BitVec 8) :
    (s.setStatus v).status = v := rfl
@[simp] theorem State.setStatus_index (s : State) (v : BitVec 8) :
    (s.setStatus v).index = s.index := rfl
@[simp] theorem State.setStatus_cmdReady (s : State) (v : BitVec 8) :
    (s.setStatus v).cmdReady = s.cmdReady := rfl
@[simp] theorem State.setStatus_inFlight (s : State) (v : BitVec 8) :
    (s.setStatus v).inFlight = s.inFlight := rfl
@[simp] theorem State.setStatus_waiting (s : State) (v : BitVec 8) :
    (s.setStatus v).waiting = s.waiting := rfl
@[simp] theorem State.setStatus_edges (s : State) (v : BitVec 8) :
    (s.setStatus v).edges = s.edges := rfl
@[simp] theorem State.setStatus_host (s : State) (v : BitVec 8) :
    (s.setStatus v).host = s.host := rfl

@[simp] theorem State.writeResult_key (s : State) (r : BitVec 8) :
    (s.writeResult r).key = s.key := rfl
@[simp] theorem State.writeResult_iv (s : State) (r : BitVec 8) : (s.writeResult r).iv = s.iv := rfl
@[simp] theorem State.writeResult_chain (s : State) (r : BitVec 8) :
    (s.writeResult r).chain = s.chain := rfl
@[simp] theorem State.writeResult_dout (s : State) (r : BitVec 8) :
    (s.writeResult r).dout = r := rfl
@[simp] theorem State.writeResult_status (s : State) (r : BitVec 8) :
    (s.writeResult r).status = statusWithResult s.status := rfl
@[simp] theorem State.writeResult_index (s : State) (r : BitVec 8) :
    (s.writeResult r).index = s.index := rfl
@[simp] theorem State.writeResult_cmdReady (s : State) (r : BitVec 8) :
    (s.writeResult r).cmdReady = s.cmdReady := rfl
@[simp] theorem State.writeResult_inFlight (s : State) (r : BitVec 8) :
    (s.writeResult r).inFlight = s.inFlight := rfl
@[simp] theorem State.writeResult_waiting (s : State) (r : BitVec 8) :
    (s.writeResult r).waiting = s.waiting := rfl
@[simp] theorem State.writeResult_edges (s : State) (r : BitVec 8) :
    (s.writeResult r).edges = s.edges := rfl
@[simp] theorem State.writeResult_host (s : State) (r : BitVec 8) :
    (s.writeResult r).host = s.host := rfl

@[simp] theorem State.raise_key (s : State) (e : ErrorKind) : (s.raise e).key = s.key := rfl
@[simp] theorem State.raise_iv (s : State) (e : ErrorKind) : (s.raise e).iv = s.iv := rfl
@[simp] theorem State.raise_chain (s : State) (e : ErrorKind) : (s.raise e).chain = s.chain := rfl
@[simp] theorem State.raise_dout (s : State) (e : ErrorKind) : (s.raise e).dout = s.dout := rfl
@[simp] theorem State.raise_status (s : State) (e : ErrorKind) :
    (s.raise e).status = statusWithError s.status e := rfl
@[simp] theorem State.raise_index (s : State) (e : ErrorKind) : (s.raise e).index = s.index := rfl
@[simp] theorem State.raise_cmdReady (s : State) (e : ErrorKind) :
    (s.raise e).cmdReady = s.cmdReady := rfl
@[simp] theorem State.raise_inFlight (s : State) (e : ErrorKind) :
    (s.raise e).inFlight = s.inFlight := rfl
@[simp] theorem State.raise_waiting (s : State) (e : ErrorKind) :
    (s.raise e).waiting = s.waiting := rfl
@[simp] theorem State.raise_edges (s : State) (e : ErrorKind) : (s.raise e).edges = s.edges := rfl
@[simp] theorem State.raise_host (s : State) (e : ErrorKind) : (s.raise e).host = s.host := rfl

@[simp] theorem State.clearError_key (s : State) : s.clearError.key = s.key := rfl
@[simp] theorem State.clearError_iv (s : State) : s.clearError.iv = s.iv := rfl
@[simp] theorem State.clearError_chain (s : State) : s.clearError.chain = s.chain := rfl
@[simp] theorem State.clearError_dout (s : State) : s.clearError.dout = s.dout := rfl
@[simp] theorem State.clearError_status (s : State) :
    s.clearError.status = statusCleared s.status := rfl
@[simp] theorem State.clearError_index (s : State) : s.clearError.index = s.index := rfl
@[simp] theorem State.clearError_cmdReady (s : State) : s.clearError.cmdReady = s.cmdReady := rfl
@[simp] theorem State.clearError_inFlight (s : State) : s.clearError.inFlight = s.inFlight := rfl
@[simp] theorem State.clearError_waiting (s : State) : s.clearError.waiting = s.waiting := rfl
@[simp] theorem State.clearError_edges (s : State) : s.clearError.edges = s.edges := rfl
@[simp] theorem State.clearError_host (s : State) : s.clearError.host = s.host := rfl

@[simp] theorem State.countCommand_key (s : State) : s.countCommand.key = s.key := rfl
@[simp] theorem State.countCommand_iv (s : State) : s.countCommand.iv = s.iv := rfl
@[simp] theorem State.countCommand_chain (s : State) : s.countCommand.chain = s.chain := rfl
@[simp] theorem State.countCommand_dout (s : State) : s.countCommand.dout = s.dout := rfl
@[simp] theorem State.countCommand_status (s : State) : s.countCommand.status = s.status := rfl
@[simp] theorem State.countCommand_index (s : State) : s.countCommand.index = s.index + 1 := rfl
@[simp] theorem State.countCommand_cmdReady (s : State) :
    s.countCommand.cmdReady = s.cmdReady := rfl
@[simp] theorem State.countCommand_inFlight (s : State) :
    s.countCommand.inFlight = s.inFlight := rfl
@[simp] theorem State.countCommand_waiting (s : State) : s.countCommand.waiting = none := rfl
@[simp] theorem State.countCommand_edges (s : State) : s.countCommand.edges = s.edges := rfl
@[simp] theorem State.countCommand_host (s : State) : s.countCommand.host = s.host := rfl

@[simp] theorem State.countEdge_key (s : State) : s.countEdge.key = s.key := rfl
@[simp] theorem State.countEdge_iv (s : State) : s.countEdge.iv = s.iv := rfl
@[simp] theorem State.countEdge_chain (s : State) : s.countEdge.chain = s.chain := rfl
@[simp] theorem State.countEdge_dout (s : State) : s.countEdge.dout = s.dout := rfl
@[simp] theorem State.countEdge_status (s : State) : s.countEdge.status = s.status := rfl
@[simp] theorem State.countEdge_index (s : State) : s.countEdge.index = s.index := rfl
@[simp] theorem State.countEdge_cmdReady (s : State) : s.countEdge.cmdReady = s.cmdReady := rfl
@[simp] theorem State.countEdge_inFlight (s : State) : s.countEdge.inFlight = s.inFlight := rfl
@[simp] theorem State.countEdge_waiting (s : State) : s.countEdge.waiting = s.waiting := rfl
@[simp] theorem State.countEdge_edges (s : State) : s.countEdge.edges = s.edges + 1 := rfl
@[simp] theorem State.countEdge_host (s : State) : s.countEdge.host = s.host := rfl

@[simp] theorem State.busyWith_key (s : State) (f : InFlight) : (s.busyWith f).key = s.key := rfl
@[simp] theorem State.busyWith_iv (s : State) (f : InFlight) : (s.busyWith f).iv = s.iv := rfl
@[simp] theorem State.busyWith_chain (s : State) (f : InFlight) :
    (s.busyWith f).chain = s.chain := rfl
@[simp] theorem State.busyWith_dout (s : State) (f : InFlight) : (s.busyWith f).dout = s.dout := rfl
@[simp] theorem State.busyWith_status (s : State) (f : InFlight) :
    (s.busyWith f).status = s.status := rfl
@[simp] theorem State.busyWith_index (s : State) (f : InFlight) :
    (s.busyWith f).index = s.index := rfl
@[simp] theorem State.busyWith_cmdReady (s : State) (f : InFlight) :
    (s.busyWith f).cmdReady = false := rfl
@[simp] theorem State.busyWith_inFlight (s : State) (f : InFlight) :
    (s.busyWith f).inFlight = some f := rfl
@[simp] theorem State.busyWith_waiting (s : State) (f : InFlight) :
    (s.busyWith f).waiting = s.waiting := rfl
@[simp] theorem State.busyWith_edges (s : State) (f : InFlight) :
    (s.busyWith f).edges = s.edges := rfl
@[simp] theorem State.busyWith_host (s : State) (f : InFlight) : (s.busyWith f).host = s.host := rfl

@[simp] theorem State.becomeReady_key (s : State) : s.becomeReady.key = s.key := rfl
@[simp] theorem State.becomeReady_iv (s : State) : s.becomeReady.iv = s.iv := rfl
@[simp] theorem State.becomeReady_chain (s : State) : s.becomeReady.chain = s.chain := rfl
@[simp] theorem State.becomeReady_dout (s : State) : s.becomeReady.dout = s.dout := rfl
@[simp] theorem State.becomeReady_status (s : State) : s.becomeReady.status = s.status := rfl
@[simp] theorem State.becomeReady_index (s : State) : s.becomeReady.index = s.index := rfl
@[simp] theorem State.becomeReady_cmdReady (s : State) : s.becomeReady.cmdReady = true := rfl
@[simp] theorem State.becomeReady_inFlight (s : State) : s.becomeReady.inFlight = none := rfl
@[simp] theorem State.becomeReady_waiting (s : State) : s.becomeReady.waiting = s.waiting := rfl
@[simp] theorem State.becomeReady_edges (s : State) : s.becomeReady.edges = s.edges := rfl
@[simp] theorem State.becomeReady_host (s : State) : s.becomeReady.host = s.host := rfl

@[simp] theorem State.setWaiting_key (s : State) (w : Option CmdWord) :
    (s.setWaiting w).key = s.key := rfl
@[simp] theorem State.setWaiting_iv (s : State) (w : Option CmdWord) :
    (s.setWaiting w).iv = s.iv := rfl
@[simp] theorem State.setWaiting_chain (s : State) (w : Option CmdWord) :
    (s.setWaiting w).chain = s.chain := rfl
@[simp] theorem State.setWaiting_dout (s : State) (w : Option CmdWord) :
    (s.setWaiting w).dout = s.dout := rfl
@[simp] theorem State.setWaiting_status (s : State) (w : Option CmdWord) :
    (s.setWaiting w).status = s.status := rfl
@[simp] theorem State.setWaiting_index (s : State) (w : Option CmdWord) :
    (s.setWaiting w).index = s.index := rfl
@[simp] theorem State.setWaiting_cmdReady (s : State) (w : Option CmdWord) :
    (s.setWaiting w).cmdReady = s.cmdReady := rfl
@[simp] theorem State.setWaiting_inFlight (s : State) (w : Option CmdWord) :
    (s.setWaiting w).inFlight = s.inFlight := rfl
@[simp] theorem State.setWaiting_waiting (s : State) (w : Option CmdWord) :
    (s.setWaiting w).waiting = w := rfl
@[simp] theorem State.setWaiting_edges (s : State) (w : Option CmdWord) :
    (s.setWaiting w).edges = s.edges := rfl
@[simp] theorem State.setWaiting_host (s : State) (w : Option CmdWord) :
    (s.setWaiting w).host = s.host := rfl

@[simp] theorem State.setHost_key (s : State) (ms : List HostMove) :
    (s.setHost ms).key = s.key := rfl
@[simp] theorem State.setHost_iv (s : State) (ms : List HostMove) : (s.setHost ms).iv = s.iv := rfl
@[simp] theorem State.setHost_chain (s : State) (ms : List HostMove) :
    (s.setHost ms).chain = s.chain := rfl
@[simp] theorem State.setHost_dout (s : State) (ms : List HostMove) :
    (s.setHost ms).dout = s.dout := rfl
@[simp] theorem State.setHost_status (s : State) (ms : List HostMove) :
    (s.setHost ms).status = s.status := rfl
@[simp] theorem State.setHost_index (s : State) (ms : List HostMove) :
    (s.setHost ms).index = s.index := rfl
@[simp] theorem State.setHost_cmdReady (s : State) (ms : List HostMove) :
    (s.setHost ms).cmdReady = s.cmdReady := rfl
@[simp] theorem State.setHost_inFlight (s : State) (ms : List HostMove) :
    (s.setHost ms).inFlight = s.inFlight := rfl
@[simp] theorem State.setHost_waiting (s : State) (ms : List HostMove) :
    (s.setHost ms).waiting = s.waiting := rfl
@[simp] theorem State.setHost_edges (s : State) (ms : List HostMove) :
    (s.setHost ms).edges = s.edges := rfl
@[simp] theorem State.setHost_host (s : State) (ms : List HostMove) :
    (s.setHost ms).host = ms := rfl

@[simp] theorem State.resetTo_key (s : State) (r : Bool) : (s.resetTo r).key = 0x00#8 := rfl
@[simp] theorem State.resetTo_iv (s : State) (r : Bool) : (s.resetTo r).iv = 0x00#8 := rfl
@[simp] theorem State.resetTo_chain (s : State) (r : Bool) : (s.resetTo r).chain = 0x00#8 := rfl
@[simp] theorem State.resetTo_dout (s : State) (r : Bool) : (s.resetTo r).dout = 0x00#8 := rfl
@[simp] theorem State.resetTo_status (s : State) (r : Bool) : (s.resetTo r).status = 0x00#8 := rfl
@[simp] theorem State.resetTo_index (s : State) (r : Bool) : (s.resetTo r).index = 0 := rfl
@[simp] theorem State.resetTo_cmdReady (s : State) (r : Bool) : (s.resetTo r).cmdReady = r := rfl
@[simp] theorem State.resetTo_inFlight (s : State) (r : Bool) : (s.resetTo r).inFlight = none := rfl
@[simp] theorem State.resetTo_waiting (s : State) (r : Bool) : (s.resetTo r).waiting = none := rfl
@[simp] theorem State.resetTo_edges (s : State) (r : Bool) : (s.resetTo r).edges = s.edges := rfl
@[simp] theorem State.resetTo_host (s : State) (r : Bool) : (s.resetTo r).host = s.host := rfl

end Sys2Proof.Machine
end

