-- ==== Sys2Proof/Laws/Flags.lean ====
section
/-! SUPPORT. What each write of `STATUS` does to each of its fields. -/

namespace Sys2Proof.Machine

@[simp] theorem statusDv_pack (d e : Bool) (c : BitVec 2) : statusDv (packStatus d e c) = d := by
  revert c d e; decide

@[simp] theorem statusErr_pack (d e : Bool) (c : BitVec 2) : statusErr (packStatus d e c) = e := by
  revert c d e; decide

@[simp] theorem statusErrcode_pack (d e : Bool) (c : BitVec 2) :
    statusErrcode (packStatus d e c) = c := by
  revert c d e; decide

/-- R24: the reserved bits are hardwired 0 in every value a command writes. -/
@[simp] theorem reserved_pack (d e : Bool) (c : BitVec 2) :
    (packStatus d e c).extractLsb' 4 4 = 0#4 := by
  revert c d e; decide

/-- A status whose reserved bits are 0 is the packing of its fields. -/
theorem pack_fields (st : BitVec 8) (h : st.extractLsb' 4 4 = 0#4) :
    packStatus (statusDv st) (statusErr st) (statusErrcode st) = st := by
  revert st; decide

@[simp] theorem statusDv_withResult (st : BitVec 8) : statusDv (statusWithResult st) = true := by
  simp [statusWithResult]

@[simp] theorem statusErr_withResult (st : BitVec 8) :
    statusErr (statusWithResult st) = statusErr st := by
  simp [statusWithResult]

@[simp] theorem statusErrcode_withResult (st : BitVec 8) :
    statusErrcode (statusWithResult st) = statusErrcode st := by
  simp [statusWithResult]

@[simp] theorem statusDv_withError (st : BitVec 8) (e : ErrorKind) :
    statusDv (statusWithError st e) = statusDv st := by
  unfold statusWithError; split <;> simp

@[simp] theorem statusErr_withError (st : BitVec 8) (e : ErrorKind) :
    statusErr (statusWithError st e) = true := by
  unfold statusWithError; split <;> simp [*]

@[simp] theorem statusDv_cleared (st : BitVec 8) : statusDv (statusCleared st) = statusDv st := by
  simp [statusCleared]

@[simp] theorem statusErr_cleared (st : BitVec 8) : statusErr (statusCleared st) = false := by
  simp [statusCleared]

@[simp] theorem statusErrcode_cleared (st : BitVec 8) : statusErrcode (statusCleared st) = 0#2 := by
  simp [statusCleared]

@[simp] theorem State.writeResult_dv (s : State) (r : BitVec 8) : (s.writeResult r).dv = true := by
  simp [State.dv]

@[simp] theorem State.writeResult_err (s : State) (r : BitVec 8) : (s.writeResult r).err = s.err := by
  simp [State.err]

@[simp] theorem State.writeResult_errcode (s : State) (r : BitVec 8) :
    (s.writeResult r).errcode = s.errcode := by
  simp [State.errcode]

@[simp] theorem State.raise_dv (s : State) (e : ErrorKind) : (s.raise e).dv = s.dv := by
  simp [State.dv]

@[simp] theorem State.raise_err (s : State) (e : ErrorKind) : (s.raise e).err = true := by
  simp [State.err]

/-- R84, R87: the code an error records. -/
theorem State.raise_errcode (s : State) (e : ErrorKind) (h : s.err = false) :
    (s.raise e).errcode = e.code := by
  unfold State.err at h
  simp [State.errcode, statusWithError, h]

@[simp] theorem State.clearError_dv (s : State) : s.clearError.dv = s.dv := by simp [State.dv]

@[simp] theorem State.clearError_err (s : State) : s.clearError.err = false := by simp [State.err]

@[simp] theorem State.clearError_errcode (s : State) : s.clearError.errcode = 0#2 := by
  simp [State.errcode]

@[simp] theorem State.resetTo_dv (s : State) (r : Bool) : (s.resetTo r).dv = false := by
  simp [State.dv, statusDv]

@[simp] theorem State.resetTo_err (s : State) (r : Bool) : (s.resetTo r).err = false := by
  simp [State.err, statusErr]

@[simp] theorem State.resetTo_errcode (s : State) (r : Bool) : (s.resetTo r).errcode = 0#2 := by
  simp [State.errcode, statusErrcode]

end Sys2Proof.Machine
end

