-- ==== Sys2Proof/Laws/Interface.lean ====
section
/-! SUPPORT. Everything each operation of the interface can do, once each: if it answers a next state,
then one of these cases holds. -/

namespace Sys2Proof.Machine

@[simp] theorem andThen_next (s : State) (f : State → Result) :
    Result.andThen (.next s) f = f s := rfl

@[simp] theorem andThen_only_next (o : Result) : (Result.andThen o fun s => .next s) = o := by
  cases o <;> rfl

theorem andThen_eq_next {o : Result} {f : State → Result} {t : State}
    (h : Result.andThen o f = .next t) : ∃ u, o = .next u ∧ f u = .next t := by
  cases o with
  | next u => exact ⟨u, rfl, h⟩
  | fault r => cases h
  | refused r => cases h

/-- R88: a discarded command changes nothing. -/
theorem runCommand_discards (body : State → State) {s : State} (h : s.err = true) :
    runCommand body s = .next s := by
  simp [runCommand, h]

/-- R89: with `ERR = 0` the command runs. -/
theorem runCommand_runs (body : State → State) {s : State} (h : s.err = false) :
    runCommand body s = .next (body s) := by
  simp [runCommand, h]

theorem runCommand_cases {body : State → State} {s t : State} (h : runCommand body s = .next t) :
    (s.err = true ∧ t = s) ∨ (s.err = false ∧ t = body s) := by
  cases he : s.err with
  | true => rw [runCommand_discards body he] at h; cases h; exact .inl ⟨rfl, rfl⟩
  | false => rw [runCommand_runs body he] at h; cases h; exact .inr ⟨rfl, rfl⟩

/-- Everything an executed word can do (R89). -/
theorem execWord_cases {w : CmdWord} {s t : State} (h : execWord w s = .next t) :
    s.errcode ≠ 3#2 ∧
      ((∃ i, decode w = .legal i ∧ exec i s = .next t) ∨
        (∃ why, decode w = .illegal why ∧
          ((s.err = true ∧ t = s) ∨ (s.err = false ∧ t = s.raise .illegalCommand)))) := by
  unfold execWord at h
  split at h
  · cases h
  · refine ⟨‹_›, ?_⟩
    cases hd : decode w with
    | legal i => rw [hd] at h; exact .inl ⟨i, rfl, h⟩
    | illegal why => rw [hd] at h; exact .inr ⟨why, rfl, runCommand_cases h⟩

/-- Everything waiting for readiness can do. -/
theorem settle_cases {s t : State} (h : settle s = .next t) :
    (∃ f, s.inFlight = some f ∧ execWord f.word s.becomeReady = .next t) ∨
      (s.inFlight = none ∧ t = s.becomeReady) := by
  unfold settle at h
  cases hf : s.inFlight with
  | some f => rw [hf] at h; exact .inl ⟨f, rfl, h⟩
  | none => rw [hf] at h; cases h; exact .inr ⟨rfl, rfl⟩

/-- Everything presenting a word until it completes can do. -/
theorem acceptCommand_cases {w : CmdWord} {s t : State} (h : acceptCommand w s = .next t) :
    s.breaksDuty (some w) = false ∧
      ∃ u, settle s = .next u ∧ execWord w u.countCommand = .next t := by
  unfold acceptCommand at h
  split at h
  · cases h
  · exact ⟨by simpa using ‹¬ s.breaksDuty (some w) = true›, andThen_eq_next h⟩

theorem idle_cases {s t : State} (h : idle s = .next t) :
    s.breaksDuty none = false ∧ settle s = .next t := by
  unfold idle at h
  split at h
  · cases h
  · exact ⟨by simpa using ‹¬ s.breaksDuty none = true›, h⟩

/-- Everything the acceptance of a word at a clock edge can do (R103, R105). -/
theorem beginCommand_cases {w : CmdWord} {s t : State} (h : beginCommand w s = .next t) :
    (Config.latency (CmdFields.ofWord w).op = 1 ∧
        execWord w s.countCommand.becomeReady = .next t) ∨
      (Config.latency (CmdFields.ofWord w).op ≠ 1 ∧
        t = s.countCommand.busyWith ⟨w, Config.latency (CmdFields.ofWord w).op - 1⟩) := by
  simp only [beginCommand] at h
  split at h
  · exact .inl ⟨‹_›, h⟩
  · cases h; exact .inr ⟨‹_›, rfl⟩

/-- Everything one clock edge can do (R99, R103, R107). -/
theorem clockEdge_cases {p : Pins} {s t : State} (h : clockEdge p s = .next t) :
    (p.rst = true ∧ t = s.countEdge.resetTo false) ∨
      (p.rst = false ∧ s.countEdge.breaksDuty p.offer = false ∧
        ((∃ f, s.inFlight = some f ∧ f.remaining ≤ 1 ∧
            execWord f.word (s.countEdge.setWaiting p.offer).becomeReady = .next t) ∨
          (∃ f, s.inFlight = some f ∧ ¬ f.remaining ≤ 1 ∧
            t = (s.countEdge.setWaiting p.offer).busyWith ⟨f.word, f.remaining - 1⟩) ∨
          (∃ w, s.inFlight = none ∧ s.cmdReady = true ∧ p.offer = some w ∧
            beginCommand w s.countEdge = .next t) ∨
          (s.inFlight = none ∧ s.cmdReady = true ∧ p.offer = none ∧ t = s.countEdge) ∨
          (s.inFlight = none ∧ s.cmdReady = false ∧
            t = (s.countEdge.setWaiting p.offer).becomeReady))) := by
  simp only [clockEdge] at h
  split at h
  · cases h; exact .inl ⟨‹_›, rfl⟩
  · refine .inr ⟨by simpa using ‹¬ p.rst = true›, ?_⟩
    split at h
    · cases h
    · refine ⟨by simpa using ‹¬ s.countEdge.breaksDuty p.offer = true›, ?_⟩
      split at h
      · rename_i f hf
        split at h
        · exact .inl ⟨f, hf, ‹_›, h⟩
        · cases h; exact .inr (.inl ⟨f, hf, ‹_›, rfl⟩)
      · rename_i hf
        split at h
        · rename_i hr
          split at h
          · rename_i w hw
            exact .inr (.inr (.inl ⟨w, hf, hr, hw, h⟩))
          · cases h; exact .inr (.inr (.inr (.inl ⟨hf, hr, ‹_›, rfl⟩)))
        · rename_i hr
          cases h
          exact .inr (.inr (.inr (.inr ⟨hf, by simpa using hr, rfl⟩)))

/-- Everything one step can do (R97). -/
theorem step_cases {s t : State} (h : step s = .next t) :
    (s.host = [] ∧ idle s = .next t) ∨
      (∃ rest, s.host = .read :: rest ∧ t = s.setHost rest) ∨
      (∃ rest, s.host = .reset :: rest ∧ t = (s.setHost rest).resetTo true) ∨
      (∃ w rest, s.host = .command w :: rest ∧ acceptCommand w (s.setHost rest) = .next t) ∨
      (∃ p rest, s.host = .edge p :: rest ∧ clockEdge p (s.setHost rest) = .next t) := by
  unfold step hostStep at h
  cases hh : s.host with
  | nil => rw [hh] at h; exact .inl ⟨rfl, h⟩
  | cons m rest =>
    rw [hh] at h
    cases m with
    | command w => exact .inr (.inr (.inr (.inl ⟨w, rest, rfl, h⟩)))
    | read => cases h; exact .inr (.inl ⟨rest, rfl, rfl⟩)
    | reset => cases h; exact .inr (.inr (.inl ⟨rest, rfl, rfl⟩))
    | edge p => exact .inr (.inr (.inr (.inr ⟨p, rest, rfl, h⟩)))

end Sys2Proof.Machine
end

