-- ==== Sys2Proof/Laws/Exec.lean ====
section
/-! SUPPORT. Everything a command can do to the state, once. -/

namespace Sys2Proof.Machine

/-- Every command but CLRERR is a body that `runCommand` guards (R88). -/
theorem exec_is_guarded (i : Instr) (hi : i ≠ .clrerr) :
    ∃ body : State → State, ∀ s, exec i s = runCommand body s := by
  cases i with
  | clrerr => exact (hi rfl).elim
  | _ => exact ⟨_, fun _ => rfl⟩

/-- Every command answers a next state: no meaning ends in a fault or a refusal. -/
theorem exec_answers (i : Instr) (s : State) : ∃ t, exec i s = .next t := by
  cases i <;> exact ⟨_, rfl⟩

/-- The writes a command can make: it writes nothing, or a result, or an error, or a result with
`CHAIN`, or `KEY`, or `CHAIN` with or without `IV`, or it clears the error. -/
theorem exec_writes {i : Instr} {s t : State} (h : exec i s = .next t) :
    t = s ∨ (∃ r, t = s.writeResult r) ∨ (∃ e, s.err = false ∧ t = s.raise e) ∨
      (∃ c r, t = (s.setChain c).writeResult r) ∨ (∃ k, t = s.setKey k) ∨
      (∃ v, t = (s.setIv v).setChain v) ∨ (∃ c, t = s.setChain c) ∨ t = s.clearError := by
  cases i with
  | nop =>
    simp only [exec, execNop] at h
    obtain ⟨_, rfl⟩ | ⟨_, rfl⟩ := runCommand_cases h <;> exact .inl rfl
  | sub data =>
    simp only [exec, execSub] at h
    obtain ⟨_, rfl⟩ | ⟨he, rfl⟩ := runCommand_cases h
    · exact .inl rfl
    · obtain ⟨_, hd⟩ | ⟨_, hd⟩ := halfBlockOperand_cases data
      · simp only [hd]; exact .inr (.inl ⟨_, rfl⟩)
      · simp only [hd]; exact .inr (.inr (.inl ⟨_, he, rfl⟩))
  | perm b | xform b | ecbe b | ecbd b =>
    simp only [exec, execPerm, execXform, execEcbe, execEcbd] at h
    obtain ⟨_, rfl⟩ | ⟨_, rfl⟩ := runCommand_cases h
    · exact .inl rfl
    · exact .inr (.inl ⟨_, rfl⟩)
  | cbce b | cbcd b =>
    simp only [exec, execCbce, execCbcd] at h
    obtain ⟨_, rfl⟩ | ⟨_, rfl⟩ := runCommand_cases h
    · exact .inl rfl
    · exact .inr (.inr (.inr (.inl ⟨_, _, rfl⟩)))
  | ldkey k =>
    simp only [exec, execLdkey] at h
    obtain ⟨_, rfl⟩ | ⟨_, rfl⟩ := runCommand_cases h
    · exact .inl rfl
    · exact .inr (.inr (.inr (.inr (.inl ⟨_, rfl⟩))))
  | ldiv v =>
    simp only [exec, execLdiv] at h
    obtain ⟨_, rfl⟩ | ⟨_, rfl⟩ := runCommand_cases h
    · exact .inl rfl
    · exact .inr (.inr (.inr (.inr (.inr (.inl ⟨_, rfl⟩)))))
  | cbcrst =>
    simp only [exec, execCbcrst] at h
    obtain ⟨_, rfl⟩ | ⟨_, rfl⟩ := runCommand_cases h
    · exact .inl rfl
    · exact .inr (.inr (.inr (.inr (.inr (.inr (.inl ⟨_, rfl⟩))))))
  | clrerr => cases h; exact .inr (.inr (.inr (.inr (.inr (.inr (.inr rfl))))))

/-- What a word does depends on nothing the host holds meanwhile, and leaves that held (R97). -/
theorem execWord_waiting (w : CmdWord) (s : State) (offer : Option CmdWord) :
    execWord w (s.setWaiting offer) =
      Result.andThen (execWord w s) fun t => .next (t.setWaiting offer) := by
  have hcode : (s.setWaiting offer).errcode = s.errcode := rfl
  have herr : (s.setWaiting offer).err = s.err := rfl
  unfold execWord
  rw [hcode]
  split
  · rfl
  · split
    · rename_i i _
      cases i with
      | clrerr => rfl
      | sub data =>
        simp only [exec, execSub, runCommand, herr]
        obtain ⟨_, hd⟩ | ⟨_, hd⟩ := halfBlockOperand_cases data <;> simp only [hd] <;>
          split <;> rfl
      | _ =>
        simp only [exec, execNop, execPerm, execXform, execEcbe, execEcbd, execCbce, execCbcd,
          execLdkey, execLdiv, execCbcrst, runCommand, herr]
        split <;> rfl
    · simp only [runCommand, herr]
      split <;> rfl

end Sys2Proof.Machine
end

