-- ==== Sys2Proof/Laws/PerInstr.lean ====
section
/-! SUPPORT. Facts about each instruction as syntax, one lemma per constructor. -/

namespace Sys2Proof.Laws

/-- R46 to R48: the command's fields pass every check of R49. -/
def EncodedLegal.Statement (i : Instr) : Prop := (encodeFields i).wellFormed = true

theorem EncodedLegal.nop : EncodedLegal.Statement .nop := rfl
theorem EncodedLegal.sub (data : BitVec 8) : EncodedLegal.Statement (.sub data) := rfl
theorem EncodedLegal.perm (block : Block) : EncodedLegal.Statement (.perm block) := rfl
theorem EncodedLegal.xform (block : Block) : EncodedLegal.Statement (.xform block) := rfl
theorem EncodedLegal.ecbe (block : Block) : EncodedLegal.Statement (.ecbe block) := rfl
theorem EncodedLegal.ecbd (block : Block) : EncodedLegal.Statement (.ecbd block) := rfl
theorem EncodedLegal.cbce (block : Block) : EncodedLegal.Statement (.cbce block) := rfl
theorem EncodedLegal.cbcd (block : Block) : EncodedLegal.Statement (.cbcd block) := rfl
theorem EncodedLegal.ldkey (key : Key) : EncodedLegal.Statement (.ldkey key) := rfl
theorem EncodedLegal.ldiv (iv : Block) : EncodedLegal.Statement (.ldiv iv) := rfl
theorem EncodedLegal.cbcrst : EncodedLegal.Statement .cbcrst := rfl
theorem EncodedLegal.clrerr : EncodedLegal.Statement .clrerr := rfl

end Sys2Proof.Laws
end

