-- ==== Sys2Proof/Laws/Run.lean ====
section
/-! SUPPORT. Everything a run of command words can do, once. -/

namespace Sys2Proof.Machine

/-- A run's first word is accepted and completed, and then the rest runs. -/
theorem runWords_cons {w : CmdWord} {ws : List CmdWord} {s : State} {os : List Observation}
    {last : State} (h : runWords (w :: ws) s = .done os last) :
    ∃ t rest, acceptCommand w s = .next t ∧ runWords ws t = .done rest last ∧
      os = t.observe :: rest := by
  simp only [runWords] at h
  cases ha : acceptCommand w s with
  | next t =>
    rw [ha] at h
    cases hr : runWords ws t with
    | done rest l => simp only [hr] at h; cases h; exact ⟨t, rest, rfl, hr, rfl⟩
    | stopped => simp only [hr] at h; cases h
  | fault r => rw [ha] at h; cases h
  | refused r => rw [ha] at h; cases h

/-- Running a word and then the rest. -/
theorem runWords_next {w : CmdWord} {ws : List CmdWord} {s t : State} {os : List Observation}
    {last : State} (ha : acceptCommand w s = .next t) (hr : runWords ws t = .done os last) :
    runWords (w :: ws) s = .done (t.observe :: os) last := by
  simp only [runWords, ha, hr]

/-- A run observes once for each of its words. -/
theorem runWords_length {ws : List CmdWord} {s : State} {os : List Observation} {last : State}
    (h : runWords ws s = .done os last) : os.length = ws.length := by
  induction ws generalizing s os with
  | nil => cases h; rfl
  | cons w ws ih =>
    obtain ⟨t, rest, _, hr, rfl⟩ := runWords_cons h
    simp [ih hr]

end Sys2Proof.Machine
end

