-- ==== Sys2Proof/Tests/Slice0.lean ====
section
/-! SUPPORT. The model's own tests. Expected values are those of spec/95_test_vectors.md (its section
is named at each group) and of the rules named. -/

namespace Sys2Proof.Tests

open Sys2Proof.Machine

/-! WellFormed: one ill-formed triple for each check (section 2.6, R47, R48), and R51's range. -/

theorem test_wellFormed_refuses_reserved_opcode :
    (CmdFields.mk 0xC#4 0#4 0x00#8).wellFormed = false := by decide
theorem test_wellFormed_refuses_reserved_field :
    (CmdFields.mk 0x1#4 0xF#4 0x00#8).wellFormed = false := by decide
theorem test_wellFormed_refuses_operand_of_cbcrst :
    (CmdFields.mk 0xA#4 0#4 0x01#8).wellFormed = false := by decide
theorem test_wellFormed_admits_sub : (CmdFields.mk 0x1#4 0#4 0xFF#8).wellFormed = true := by decide
theorem test_assemblable_refuses_wide_halfBlock : (Instr.sub 0x10#8).assemblable = false := by decide

/-! Decode: each command's word, written out from R44 and R46 as OP, RSV, DATA. -/

theorem test_decode_nop : decode 0b0000_0000_00000000#16 = .legal .nop := by decide
theorem test_decode_sub : decode 0b0001_0000_00001101#16 = .legal (.sub 0x0D#8) := by decide
theorem test_decode_perm : decode 0b0010_0000_01011001#16 = .legal (.perm 0x59#8) := by decide
theorem test_decode_xform : decode 0b0011_0000_11001101#16 = .legal (.xform 0xCD#8) := by decide
theorem test_decode_ecbe : decode 0b0100_0000_11001101#16 = .legal (.ecbe 0xCD#8) := by decide
theorem test_decode_ecbd : decode 0b0101_0000_00001101#16 = .legal (.ecbd 0x0D#8) := by decide
theorem test_decode_cbce : decode 0b0110_0000_01101000#16 = .legal (.cbce 0x68#8) := by decide
theorem test_decode_cbcd : decode 0b0111_0000_11111111#16 = .legal (.cbcd 0xFF#8) := by decide
theorem test_decode_ldkey : decode 0b1000_0000_10101010#16 = .legal (.ldkey 0xAA#8) := by decide
theorem test_decode_ldiv : decode 0b1001_0000_10100101#16 = .legal (.ldiv 0xA5#8) := by decide
theorem test_decode_cbcrst : decode 0b1010_0000_00000000#16 = .legal .cbcrst := by decide
theorem test_decode_clrerr : decode 0b1011_0000_00000000#16 = .legal .clrerr := by decide

/-! Section 2.6, illegal words. -/

theorem test_decode_illegal_operand :
    decode 0x0001#16 = .illegal .operandField ∧ decode 0xA001#16 = .illegal .operandField := by decide
theorem test_decode_illegal_rsv :
    decode 0x0100#16 = .illegal .reservedField ∧ decode 0xB100#16 = .illegal .reservedField ∧
      decode 0x1F00#16 = .illegal .reservedField := by decide
theorem test_decode_illegal_opcode :
    decode 0xC000#16 = .illegal .reservedOpcode ∧ decode 0xD123#16 = .illegal .reservedOpcode ∧
      decode 0xFFFF#16 = .illegal .reservedOpcode := by decide
theorem test_decodeTableWord : decodeTableWord 16 0x20A5 = some (.perm 0xA5#8) := by decide

/-! One step on a small state. -/

/-- The state after one word; the old state where there is none. -/
def after (w : CmdWord) (s : State) : State :=
  match acceptCommand w s with
  | .next t => t
  | .fault _ => s
  | .refused _ => s

/-- A state after reset but for `IV`, `CHAIN`, `DOUT` and `STATUS`. -/
def withRegs (iv chain dout status : BitVec 8) : State :=
  { State.reset with iv := iv, chain := chain, dout := dout, status := status }

/-- The registers a vector names: `KEY`, `IV`, `CHAIN`, `DOUT`, `STATUS`. -/
def regs (s : State) : BitVec 8 × BitVec 8 × BitVec 8 × BitVec 8 × BitVec 8 :=
  (s.key, s.iv, s.chain, s.dout, s.status)

/-! Section 2.1. -/

theorem test_sub_known_entry : regs (after 0x100D#16 State.reset) = (0, 0, 0, 0x09, 0x01) := by decide
theorem test_sub_domain_error_keeps_dout :
    regs (after 0x101D#16 (withRegs 0 0 0x09 0x01)) = (0, 0, 0, 0x09, 0x0B) := by decide

/-! Section 2.2. -/

theorem test_perm : regs (after 0x2059#16 State.reset) = (0, 0, 0, 0x96, 0x01) := by decide
theorem test_permute_other_values :
    permute Config.ptable 0xCD = 0x57 ∧ permute Config.ptable 0x0F = 0x1B ∧
      permute Config.ptable 0x12 = 0x88 ∧ permute Config.ptable 0x80 = 0x40 := by decide

/-! Section 2.3. -/

theorem test_xform : regs (after 0x30CD#16 State.reset) = (0, 0, 0, 0x96, 0x01) := by decide
theorem test_ecbe : regs (after 0x403D#16 State.reset) = (0, 0, 0, 0x72, 0x01) := by decide
theorem test_ecbd : regs (after 0x500D#16 State.reset) = (0, 0, 0, 0xD2, 0x01) := by decide

/-! Section 2.4. -/

theorem test_ldiv : regs (after 0x90A5#16 (withRegs 1 2 3 1)) = (0, 0xA5, 0xA5, 3, 1) := by decide
theorem test_cbce :
    regs (after 0x601B#16 (withRegs 0xA5 0x96 0x96 0x01)) = (0, 0xA5, 0x92, 0x92, 0x01) := by decide
theorem test_cbcd_chains_on_input :
    regs (after 0x700D#16 (withRegs 0xA5 0xA5 0 0)) = (0, 0xA5, 0x0D, 0x77, 0x01) := by decide
theorem test_cbcrst :
    regs (after 0xA000#16 (withRegs 0xA5 0xB6 0xB6 0x01)) = (0, 0xA5, 0xA5, 0xB6, 0x01) := by decide

/-! Section 2.5. -/

theorem test_nop : after 0x0000#16 State.reset = { State.reset with index := 1 } := by decide
theorem test_not_nop : regs (after 0x0001#16 State.reset) = (0, 0, 0, 0, 0x06) := by decide
theorem test_ldkey : regs (after 0x80AA#16 (withRegs 1 2 3 1)) = (0xAA, 1, 2, 3, 1) := by decide
theorem test_clrerr : regs (after 0xB000#16 (withRegs 0 0 9 0x0B)) = (0, 0, 0, 9, 0x01) := by decide
theorem test_malformed_clrerr_discarded :
    regs (after 0xB001#16 (withRegs 0 0 9 0x07)) = (0, 0, 0, 9, 0x07) := by decide

/-! Sections 2.1 and 2.7: the order of the checks (R89). -/

theorem test_illegal_before_domain : (after 0x111D#16 State.reset).status = 0x06 := by decide
theorem test_discard_first : (after 0xC000#16 (withRegs 0 0 9 0x0B)).status = 0x0B := by decide

/-! R51, the assembler. -/

theorem test_assemble :
    assemble "SUB 0x0D ; known\nNOP\n.word 0x101D\nPERM 89\nLDIV 0b10100101" =
      some [0x100D, 0x0000, 0x101D, 0x2059, 0x90A5] := by decide
theorem test_assemble_refuses : assemble "SUB 16" = none ∧ assemble "PERM 256" = none := by decide

/-! The interface. -/

/-- The host presents a word as the next move after reset. -/
theorem test_step_runs_the_word :
    (match step (State.reset.withFetchWord 16 0x2059) with
      | .next t => some (t.dout, t.index, t.host)
      | _ => none) = some (0x96, 1, []) := by decide

/-- R107: a reset during a command abandons it. -/
theorem test_reset_abandons :
    (match clockEdge ⟨true, false, 0⟩ { State.reset with
        cmdReady := false, key := 7, index := 1, inFlight := some ⟨0x80AA, 3⟩ } with
      | .next t => some (t.key, t.index, t.inFlight, t.cmdReady)
      | _ => none) = some (0, 0, none, false) := by decide

/-! Witnesses: for each statement of the certificate that has hypotheses, a state and operands that
meet them together, at the boundary values where its clauses meet. -/

/-- After reset with the given status. -/
def withStatus (st : BitVec 8) : State := { State.reset with status := st }

/-- After reset with the given coming moves of the host. -/
def withMoves (st : BitVec 8) (ms : List HostMove) : State :=
  { State.reset with status := st, host := ms }

/-- Inside a command with 2 edges left, the host holding the given word. -/
def insideCommand (w : Option CmdWord) : State :=
  { State.reset with cmdReady := false, index := 1, inFlight := some ⟨0x80AA, 2⟩, waiting := w }

/-- Under a DomainError inside a command with the given word and edges left. -/
def inErrorInside (w : CmdWord) (n : Nat) : State :=
  { State.reset with status := 0x0B, cmdReady := false, index := 1, inFlight := some ⟨w, n⟩ }

theorem test_witness_EncodeOfDecodeIsTheWord : decode 0x2059#16 = .legal (.perm 0x59#8) := by decide

theorem test_witness_IllegalWordsRaiseIllegalCommand :
    decode 0xC000#16 = .illegal .reservedOpcode ∧ decode 0x2100#16 = .illegal .reservedField ∧
      decode 0x0001#16 = .illegal .operandField ∧ decode 0xB001#16 = .illegal .operandField ∧
      State.reset.Settled ∧ State.reset.err = false ∧ State.reset.errcode ≠ 3#2 :=
  ⟨by decide, by decide, by decide, by decide, ⟨rfl, rfl⟩, by decide, by decide⟩

theorem test_witness_AssemblerPlacesTheImmediate :
    assembleImm "SUB".toList 15 = some 0x100F ∧ assembleImm "SUB".toList 16 = none ∧
      assembleImm "PERM".toList 255 = some 0x20FF ∧ assembleImm "PERM".toList 256 = none := by decide

theorem test_witness_StepRunsTheDecodedInstruction :
    decode 0x2059#16 = .legal (.perm 0x59#8) ∧
      (withMoves 0 [.command 0x2059#16]).host = [.command 0x2059#16] ∧
      (withMoves 0 [.command 0x2059#16]).Settled ∧
      (withMoves 0 [.command 0x2059#16]).errcode ≠ 3#2 :=
  ⟨by decide, rfl, ⟨rfl, rfl⟩, by decide⟩

/-- The discarded, the illegal, the DomainError and the executed case: 0x10FF under an error, 0x1110,
0x1010 and 0x100F without. -/
theorem test_witness_AcceptedWordFollowsTheStepFunction :
    (withStatus 0x06).Settled ∧ (withStatus 0x06).errcode ≠ 3#2 ∧ (withStatus 0x06).err = true ∧
      State.reset.Settled ∧ State.reset.errcode ≠ 3#2 ∧ State.reset.err = false ∧
      decode 0x1110#16 = .illegal .reservedField ∧ decode 0x1010#16 = .legal (.sub 0x10#8) ∧
      decode 0x100F#16 = .legal (.sub 0x0F#8) :=
  ⟨⟨rfl, rfl⟩, by decide, by decide, ⟨rfl, rfl⟩, by decide, by decide, by decide, by decide, by decide⟩

theorem test_witness_CommandsAreDiscardedUnderAnError :
    Instr.nop ≠ .clrerr ∧ (withStatus 0x0A).err = true := by decide

theorem test_witness_ReservedErrorCodeStops : (withStatus 0x0E).errcode = 3#2 := by decide

/-- The hypothesis `ERR = 0` of every command's result statement, and SUB's two clauses. -/
theorem test_witness_command_results :
    State.reset.err = false ∧ BitVec.extractLsb' 4 4 0x0F#8 = 0#4 ∧
      BitVec.extractLsb' 4 4 0x10#8 ≠ 0#4 := by decide

theorem test_witness_ErrorsArePrecise :
    State.reset.Settled ∧ State.reset.err = false ∧
      acceptCommand 0xC000#16 State.reset = .next { withStatus 0x06 with index := 1 } ∧
      acceptCommand 0x1010#16 State.reset = .next { withStatus 0x0A with index := 1 } ∧
      (withStatus 0x06).err = true ∧ (withStatus 0x0A).err = true :=
  ⟨⟨rfl, rfl⟩, by decide, rfl, rfl, by decide, by decide⟩

theorem test_witness_DomainErrorIsForTheseWords :
    State.reset.Settled ∧ State.reset.err = false ∧ State.reset.errcode = 0#2 ∧
      acceptCommand 0x1010#16 State.reset = .next { withStatus 0x0A with index := 1 } ∧
      acceptCommand 0x10FF#16 State.reset = .next { withStatus 0x0A with index := 1 } ∧
      acceptCommand 0x1110#16 State.reset = .next { withStatus 0x06 with index := 1 } ∧
      (withStatus 0x0A).errcode = 2#2 ∧ (withStatus 0x06).errcode ≠ 2#2 :=
  ⟨⟨rfl, rfl⟩, by decide, by decide, rfl, rfl, rfl, by decide, by decide⟩

theorem test_witness_ErrorEndsByClrerrOrReset :
    (∀ f, (withMoves 0x0B []).inFlight = some f → f.word ≠ 0xB000#16) ∧
      (withMoves 0x0B []).err = true ∧ step (withMoves 0x0B []) = .next (withMoves 0x0B []) ∧
      step (withMoves 0x0B [.command 0xB000#16]) = .next { withStatus 0x01 with index := 1 } ∧
      step (withMoves 0x0B [.reset]) = .next State.reset :=
  ⟨nofun, by decide, rfl, rfl, rfl⟩

/-- Its edges inside a command: 0xB000 and another word complete, 0xB000 does not yet. -/
theorem test_witness_ErrorEndsByClrerrOrReset_edges :
    clockEdge ⟨false, false, 0⟩ (inErrorInside 0xB000 1) =
        .next { withStatus 0x01 with index := 1, edges := 1 } ∧
      clockEdge ⟨false, false, 0⟩ (inErrorInside 0x80AA 1) =
        .next { withStatus 0x0B with index := 1, edges := 1 } ∧
      clockEdge ⟨false, false, 0⟩ (inErrorInside 0xB000 2) =
        .next { inErrorInside 0xB000 1 with edges := 1 } ∧
      (inErrorInside 0xB000 1).err = true ∧ (inErrorInside 0xB000 1).errcode ≠ 3#2 ∧
      (inErrorInside 0xB000 1).host = [] :=
  ⟨rfl, rfl, rfl, by decide, by decide, rfl⟩

theorem test_witness_OnlyCbcCommandsUseChain :
    ¬ UsesChain (.nop) ∧ exec .nop State.reset = .next State.reset := ⟨id, rfl⟩

theorem test_witness_OnlyTheirCommandsUseIvAndKey :
    (∀ x, Instr.nop ≠ .ldiv x) ∧ Instr.nop ≠ .cbcrst ∧ (∀ x, Instr.nop ≠ .ldkey x) ∧
      exec .nop State.reset = .next State.reset :=
  ⟨nofun, nofun, nofun, rfl⟩

theorem test_witness_OnlyResultsWriteDoutAndDv :
    ¬ WritesDout .nop ∧ WritesDout (.perm 0) ∧ exec (.perm 0) State.reset = .next (withStatus 0x01) ∧
      (withStatus 0x01).err = false ∧ exec (.sub 0x10) State.reset = .next (withStatus 0x0A) ∧
      (withStatus 0x0A).err = true ∧ exec .nop (withStatus 0x01) = .next (withStatus 0x01) ∧
      (withStatus 0x01).dv = true :=
  ⟨id, trivial, rfl, by decide, rfl, by decide, rfl, by decide⟩

/-- A legal state with an error, and one whose host holds a word. -/
theorem test_witness_EveryStepKeepsTheLegalStates :
    (withStatus 0x06).Legal ∧ step (withStatus 0x06) = .next (withStatus 0x06) :=
  ⟨⟨⟨by decide, by decide, by decide⟩, fun _ => rfl, nofun⟩, rfl⟩

theorem test_witness_EveryAcceptedCommandCompletes :
    (withStatus 0x06).Legal ∧ (withStatus 0x06).waiting = none ∧
      ({ withStatus 0x06 with waiting := some 5#16 } : State).Legal :=
  ⟨⟨⟨by decide, by decide, by decide⟩, fun _ => rfl, nofun⟩, rfl,
    ⟨by decide, by decide, by decide⟩, fun _ => rfl, nofun⟩

theorem test_witness_ResetEdgeSetsEveryElement :
    (Pins.mk true true 0x80AA#16).rst = true ∧ (Pins.mk false true 0x80AA#16).rst = false := by decide

theorem test_witness_ResetPulseRestoresTheResetState :
    (withMoves 0x0B [.reset]).host = [.reset] := rfl

/-- A host that presents its next word at once, and one that holds the word it presents first. -/
theorem test_witness_ClockEdgesExecuteTheCommand :
    State.reset.inFlight = none ∧ State.reset.cmdReady = true ∧ State.reset.waiting = none ∧
      ({ State.reset with waiting := some 0x2059#16 } : State).waiting = some 0x2059#16 ∧
      (List.replicate (Config.latency 2#4 - 1) (Pins.mk false true 0x100D#16)).length + 1 =
        Config.latency (BitVec.extractLsb' 12 4 0x2059#16) ∧
      (∀ p ∈ List.replicate (Config.latency 2#4 - 1) (Pins.mk false true 0x100D#16), p.rst = false) ∧
      KeepsOffers (List.replicate (Config.latency 2#4 - 1) (Pins.mk false true 0x100D#16)) ∧
      KeepsOffers [⟨false, false, 0⟩, ⟨false, true, 5⟩, ⟨false, true, 5⟩] ∧
      ¬ KeepsOffers [⟨false, true, 5⟩, ⟨false, true, 6⟩] :=
  ⟨rfl, rfl, rfl, rfl,
    by rw [List.length_replicate, show BitVec.extractLsb' 12 4 0x2059#16 = 2#4 by decide]; rfl,
    fun p hp => by rw [List.eq_of_mem_replicate hp],
    List.isChain_replicate_of_rel _ (.inr rfl), by simp [KeepsOffers, Pins.offer],
    by simp [KeepsOffers, Pins.offer]⟩

theorem test_witness_RegistersKeepInsideACommand :
    (Pins.mk false true 5#16).rst = false ∧ (insideCommand none).inFlight = some ⟨0x80AA, 2⟩ ∧
      (insideCommand none).waiting = none ∧ (insideCommand (some 5#16)).waiting = some 5#16 ∧
      (Pins.mk false true 5#16).offer = some 5#16 ∧ 1 < (InFlight.mk 0x80AA 2).remaining :=
  ⟨rfl, rfl, rfl, rfl, rfl, by decide⟩

theorem test_witness_HeldWordIsTakenOnce :
    (insideCommand (some 5#16)).StatusLegal ∧ (insideCommand none).StatusLegal ∧
      (insideCommand (some 5#16)).inFlight = some ⟨0x80AA, 2⟩ ∧ 1 ≤ (InFlight.mk 0x80AA 2).remaining :=
  ⟨⟨by decide, by decide, by decide⟩, ⟨by decide, by decide, by decide⟩, rfl, by decide⟩

theorem test_witness_BrokenHandshakeIsRefused :
    (insideCommand (some 5#16)).waiting = some 5#16 ∧ (Pins.mk false true 6#16).offer ≠ some 5#16 ∧
      (Pins.mk false false 5#16).offer ≠ some 5#16 ∧ (Pins.mk false true 6#16).rst = false := by decide

theorem test_witness_IdleAndReadingChangeNothing :
    (withMoves 0x0B []).Settled ∧ (withMoves 0x0B []).host = [] ∧
      (withMoves 0x0B [.read]).host = [.read] := ⟨⟨rfl, rfl⟩, rfl, rfl⟩

theorem test_witness_PortsShowTheRegisters : State.reset.Settled := ⟨rfl, rfl⟩

/-- The clauses of R58 with a table that repeats an index, and of R57 at the ends of the range. -/
theorem test_witness_permutation :
    (fun _ => 0 : PTable) 0 = (fun _ => 0 : PTable) 1 ∧
      BitVec.getLsbD 0x80#8 7 = BitVec.getLsbD 0xFF#8 7 ∧ 0 < 1 ∧ 7 ≤ 7 ∧ (0 : Fin 8) ≠ 2 := by decide

theorem test_witness_TransformIsNotItsOwnInverse : Config.sbox 0xD#4 = 0x9#4 := by decide

theorem test_witness_runs :
    State.reset.Settled ∧ State.reset.err = false ∧ State.reset.errcode ≠ 3#2 :=
  ⟨⟨rfl, rfl⟩, by decide, by decide⟩

theorem test_witness_CbcEncryptionSpreadsAChange :
    SboxIsPerm id ∧ (0x68#8 : Block) ≠ 0x69#8 ∧
      0 < [0#8].length + 1 + [0#8].length ∧ 2 < [0#8].length + 1 + [0#8].length :=
  ⟨Function.bijective_id, by decide, by decide, by decide⟩

theorem test_witness_CbcRoundTripExactlyAtFixedPoints :
    [0x96#8] = cbcEncrypt Config.sbox Config.ptable [0x68#8] 0 0xA5#8 := by decide

theorem test_witness_KeysAreNeverObservable :
    State.reset.Settled ∧ List.Forall₂ SameButKey [0x8000#16, 0x2059#16] [0x80FF#16, 0x2059#16] :=
  ⟨⟨rfl, rfl⟩, .cons (.inr ⟨0x00#8, 0xFF#8, by decide, by decide⟩) (.cons (.inl rfl) .nil)⟩

end Sys2Proof.Tests
end

section
/-! Everything a word can do keeps the legal states (spec/10_state.md R22, R23, spec/70_reset_and_hazards.md
R103, R105): first for each write of the state, then for each operation of the interface. -/

namespace Sys2Proof.Machine

/-! ## The bounds of R105 -/

theorem one_le_latency (op : BitVec 4) : 1 ≤ Config.latency op := Nat.succ_pos _

theorem latency_le_LATENCY (op : BitVec 4) : Config.latency op ≤ Config.LATENCY :=
  Nat.mod_lt _ (Nat.succ_pos _)

/-! ## The writes of the state -/

theorem ErrorKind.code_ne_zero (e : ErrorKind) : e.code ≠ 0#2 := by cases e <;> decide

theorem ErrorKind.code_ne_three (e : ErrorKind) : e.code ≠ 3#2 := by cases e <;> decide

@[simp] theorem reserved_withResult (st : BitVec 8) :
    (statusWithResult st).extractLsb' 4 4 = 0#4 := reserved_pack _ _ _

@[simp] theorem reserved_cleared (st : BitVec 8) :
    (statusCleared st).extractLsb' 4 4 = 0#4 := reserved_pack _ _ _

/-- R24, R87: an error is raised with the reserved bits at 0. -/
theorem reserved_withError {st : BitVec 8} (e : ErrorKind) (h : statusErr st = false) :
    (statusWithError st e).extractLsb' 4 4 = 0#4 := by
  simp [statusWithError, h]

theorem handshakeLegal_of_inFlight_none {s : State} (h : s.inFlight = none) : s.HandshakeLegal := by
  intro f hf
  rw [h] at hf
  cases hf

theorem writeResult_legal {s : State} (h : s.Legal) (r : BitVec 8) : (s.writeResult r).Legal := by
  obtain ⟨⟨_, hcode, herr⟩, _, hshake⟩ := h
  refine ⟨⟨?reserved, ?code, ?iff⟩, ?dout, hshake⟩
  case reserved => simp
  case code => simpa using hcode
  case iff => simpa using herr
  case dout => intro hdv; simp at hdv

theorem raise_legal {s : State} (h : s.Legal) (he : s.err = false) (e : ErrorKind) :
    (s.raise e).Legal := by
  obtain ⟨_, hdout, hshake⟩ := h
  have hcode := s.raise_errcode e he
  refine ⟨⟨reserved_withError e he, ?code, ?iff⟩, ?dout, hshake⟩
  case code => rw [hcode]; exact e.code_ne_three
  case iff => simp [hcode, e.code_ne_zero]
  case dout => intro hdv; exact hdout (by simpa using hdv)

theorem clearError_legal {s : State} (h : s.Legal) : s.clearError.Legal := by
  obtain ⟨_, hdout, hshake⟩ := h
  refine ⟨⟨?reserved, ?code, ?iff⟩, ?dout, hshake⟩
  case reserved => simp
  case code => simp
  case iff => simp
  case dout => intro hdv; exact hdout (by simpa using hdv)

/-- R33: reset leads to a legal state from any state. -/
theorem resetTo_legal (s : State) (ready : Bool) : (s.resetTo ready).Legal :=
  ⟨⟨by simp, by simp, by simp⟩, fun _ => rfl, handshakeLegal_of_inFlight_none rfl⟩

theorem becomeReady_legal {s : State} (h : s.Legal) : s.becomeReady.Legal := by
  obtain ⟨hstatus, hdout, _⟩ := h
  exact ⟨hstatus, hdout, handshakeLegal_of_inFlight_none rfl⟩

theorem countCommand_legal {s : State} (h : s.Legal) : s.countCommand.Legal := by
  obtain ⟨hstatus, hdout, hshake⟩ := h
  refine ⟨hstatus, hdout, fun f hf => ?_⟩
  obtain ⟨hready, hpos, hlt, _⟩ := hshake f hf
  exact ⟨hready, hpos, hlt, Nat.succ_pos _⟩

/-- R103, R105: a counted command may be in progress for 1 to `LATENCY - 1` edges more. -/
theorem busyWith_legal {s : State} (h : s.Legal) {f : InFlight} (hpos : 1 ≤ f.remaining)
    (hlt : f.remaining < Config.LATENCY) (hindex : 1 ≤ s.index) : (s.busyWith f).Legal := by
  obtain ⟨hstatus, hdout, _⟩ := h
  refine ⟨hstatus, hdout, fun g hg => ?_⟩
  obtain rfl : f = g := Option.some.inj hg
  exact ⟨rfl, hpos, hlt, hindex⟩

/-! The remaining writes touch no field the invariant reads. -/

theorem setKey_legal {s : State} (h : s.Legal) (k : Key) : (s.setKey k).Legal := h

theorem setIv_legal {s : State} (h : s.Legal) (v : Block) : (s.setIv v).Legal := h

theorem setChain_legal {s : State} (h : s.Legal) (c : Block) : (s.setChain c).Legal := h

theorem setWaiting_legal {s : State} (h : s.Legal) (offer : Option CmdWord) :
    (s.setWaiting offer).Legal := h

theorem setHost_legal {s : State} (h : s.Legal) (moves : List HostMove) :
    (s.setHost moves).Legal := h

theorem countEdge_legal {s : State} (h : s.Legal) : s.countEdge.Legal := h

/-! ## The operations -/

theorem exec_keeps_legal {i : Instr} {s t : State} (hs : s.Legal) (h : exec i s = .next t) :
    t.Legal := by
  obtain rfl | ⟨r, rfl⟩ | ⟨e, he, rfl⟩ | ⟨c, r, rfl⟩ | ⟨k, rfl⟩ | ⟨v, rfl⟩ | ⟨c, rfl⟩ | rfl :=
    exec_writes h
  · exact hs
  · exact writeResult_legal hs r
  · exact raise_legal hs he e
  · exact writeResult_legal (setChain_legal hs c) r
  · exact setKey_legal hs k
  · exact setChain_legal (setIv_legal hs v) v
  · exact setChain_legal hs c
  · exact clearError_legal hs

theorem execWord_keeps_legal {w : CmdWord} {s t : State} (hs : s.Legal)
    (h : execWord w s = .next t) : t.Legal := by
  obtain ⟨_, ⟨i, _, hi⟩ | ⟨_, _, ⟨_, rfl⟩ | ⟨he, rfl⟩⟩⟩ := execWord_cases h
  · exact exec_keeps_legal hs hi
  · exact hs
  · exact raise_legal hs he _

theorem settle_keeps_legal {s t : State} (hs : s.Legal) (h : settle s = .next t) : t.Legal := by
  obtain ⟨f, _, hw⟩ | ⟨_, rfl⟩ := settle_cases h
  · exact execWord_keeps_legal (becomeReady_legal hs) hw
  · exact becomeReady_legal hs

theorem acceptCommand_keeps_legal {w : CmdWord} {s t : State} (hs : s.Legal)
    (h : acceptCommand w s = .next t) : t.Legal := by
  obtain ⟨_, u, hu, hw⟩ := acceptCommand_cases h
  exact execWord_keeps_legal (countCommand_legal (settle_keeps_legal hs hu)) hw

/-- R105: with `L = 1` the command completes at once, else `L - 1` edges are left. -/
theorem beginCommand_keeps_legal {w : CmdWord} {s t : State} (hs : s.Legal)
    (h : beginCommand w s = .next t) : t.Legal := by
  have hcount := countCommand_legal hs
  obtain ⟨_, hw⟩ | ⟨hlatency, rfl⟩ := beginCommand_cases h
  · exact execWord_keeps_legal (becomeReady_legal hcount) hw
  · have hlow := one_le_latency (CmdFields.ofWord w).op
    have hhigh := latency_le_LATENCY (CmdFields.ofWord w).op
    refine busyWith_legal hcount ?_ ?_ (Nat.succ_pos _) <;> dsimp only <;> omega

theorem clockEdge_keeps_legal {p : Pins} {s t : State} (hs : s.Legal)
    (h : clockEdge p s = .next t) : t.Legal := by
  have hoffer : (s.countEdge.setWaiting p.offer).Legal := setWaiting_legal (countEdge_legal hs) _
  obtain ⟨_, rfl⟩ | ⟨_, _, hedge⟩ := clockEdge_cases h
  · exact resetTo_legal _ _
  obtain ⟨f, _, _, hw⟩ | ⟨f, hf, hleft, rfl⟩ | ⟨w, _, _, _, hw⟩ | ⟨_, _, _, rfl⟩ | ⟨_, _, rfl⟩ :=
    hedge
  · exact execWord_keeps_legal (becomeReady_legal hoffer) hw
  · obtain ⟨_, _, hshake⟩ := hs
    obtain ⟨_, _, hlt, hindex⟩ := hshake f hf
    refine busyWith_legal hoffer ?_ ?_ hindex <;> dsimp only <;> omega
  · exact beginCommand_keeps_legal (countEdge_legal hs) hw
  · exact countEdge_legal hs
  · exact becomeReady_legal hoffer

theorem step_keeps_legal {s t : State} (hs : s.Legal) (h : step s = .next t) : t.Legal := by
  obtain ⟨_, hidle⟩ | ⟨rest, _, rfl⟩ | ⟨rest, _, rfl⟩ | ⟨w, rest, _, haccept⟩ | ⟨p, rest, _, hedge⟩ :=
    step_cases h
  · obtain ⟨_, hsettle⟩ := idle_cases hidle
    exact settle_keeps_legal hs hsettle
  · exact setHost_legal hs rest
  · exact resetTo_legal _ _
  · exact acceptCommand_keeps_legal (setHost_legal hs rest) haccept
  · exact clockEdge_keeps_legal (setHost_legal hs rest) hedge

/-- Settles O27: each way a step can go is made of operations that keep the legal states. -/
theorem everyStepKeepsTheLegalStates : Obligations.EveryStepKeepsTheLegalStates :=
  fun _ _ => step_keeps_legal

/-- Settles O28: the reset state is where a reset leads. -/
theorem resetIsLegal : Obligations.ResetIsLegal := resetTo_legal State.reset true

end Sys2Proof.Machine
end

section
/-! Which commands use `IV` and `KEY` (spec/10_state.md R17, R18, spec/42_block_transform.md R61). -/

namespace Sys2Proof.Machine

/-- A guarded command does the same after an update that `STATUS.ERR` and the command's body do not
notice. -/
theorem runCommand_commutes (update : State → State) {body : State → State} {s : State}
    (herr : (update s).err = s.err) (hbody : body (update s) = update (body s)) :
    runCommand body (update s) =
      Result.andThen (runCommand body s) fun t => .next (update t) := by
  cases he : s.err with
  | true => rw [runCommand_discards _ (herr.trans he), runCommand_discards _ he, andThen_next]
  | false => rw [runCommand_runs _ (herr.trans he), runCommand_runs _ he, andThen_next, hbody]

/-- R18: a command other than LDIV and CBCRST does the same whatever `IV` is, and passes it on. -/
theorem exec_setIv (i : Instr) (hldiv : ∀ x, i ≠ .ldiv x) (hcbcrst : i ≠ .cbcrst) (s : State)
    (v : Block) :
    exec i (s.setIv v) = Result.andThen (exec i s) fun t => .next (t.setIv v) := by
  cases i with
  | ldiv x => exact (hldiv x rfl).elim
  | cbcrst => exact (hcbcrst rfl).elim
  | clrerr => rfl
  | sub data =>
    simp only [exec, execSub]
    refine runCommand_commutes (·.setIv v) rfl ?_
    cases halfBlockOperand data <;> rfl
  | nop | perm _ | xform _ | ecbe _ | ecbd _ | cbce _ | cbcd _ | ldkey _ =>
    simp only [exec, execNop, execPerm, execXform, execEcbe, execEcbd, execCbce, execCbcd,
      execLdkey]
    exact runCommand_commutes (·.setIv v) rfl rfl

/-- R17, R61: a command other than LDKEY does the same whatever `KEY` is, and passes it on. -/
theorem exec_setKey (i : Instr) (hldkey : ∀ x, i ≠ .ldkey x) (s : State) (k : Key) :
    exec i (s.setKey k) = Result.andThen (exec i s) fun t => .next (t.setKey k) := by
  cases i with
  | ldkey x => exact (hldkey x rfl).elim
  | clrerr => rfl
  | sub data =>
    simp only [exec, execSub]
    refine runCommand_commutes (·.setKey k) rfl ?_
    cases halfBlockOperand data <;> rfl
  | nop | perm _ | xform _ | ecbe _ | ecbd _ | cbce _ | cbcd _ | ldiv _ | cbcrst =>
    simp only [exec, execNop, execPerm, execXform, execEcbe, execEcbd, execCbce, execCbcd,
      execLdiv, execCbcrst]
    exact runCommand_commutes (·.setKey k) rfl rfl

/-- An operation that passes on whatever a register holds does not write it: put there what it holds. -/
theorem kept_of_commutes {get : State → BitVec 8} {set : State → BitVec 8 → State}
    (hget : ∀ s v, get (set s v) = v) (hset : ∀ s, set s (get s) = s) {op : State → Result}
    {s t : State} (hcommutes : ∀ v, op (set s v) = Result.andThen (op s) fun t => .next (set t v))
    (h : op s = .next t) : get t = get s := by
  have hown := hcommutes (get s)
  rw [hset, h, andThen_next] at hown
  have ht : t = set t (get s) := Host.Outcome.next.inj hown
  rw [ht, hget]

/-- Settles O25: each such command commutes with replacing the register. -/
theorem onlyTheirCommandsUseIvAndKey : Obligations.OnlyTheirCommandsUseIvAndKey := by
  intro i s t v k h
  refine ⟨fun hldiv hcbcrst => ⟨?_, ?_⟩, fun hldkey => ⟨?_, ?_⟩⟩
  · exact kept_of_commutes State.setIv_iv (fun _ => rfl) (exec_setIv i hldiv hcbcrst s) h
  · exact (exec_setIv i hldiv hcbcrst s v).trans (by rw [h, andThen_next]; rfl)
  · exact kept_of_commutes State.setKey_key (fun _ => rfl) (exec_setKey i hldkey s) h
  · exact (exec_setKey i hldkey s k).trans (by rw [h, andThen_next]; rfl)

end Sys2Proof.Machine
end

section
/-! Which commands write `DOUT` and `DV` (spec/10_state.md R20, R22). -/

namespace Sys2Proof.Machine

/-- What a command does to `DOUT` and `DV`: it leaves both, and then a result command ends with
`ERR = 1`; or it is a result command that ends with a result and without an error. -/
theorem exec_dout_dv_cases {i : Instr} {s t : State} (h : exec i s = .next t) :
    (t.dout = s.dout ∧ t.dv = s.dv ∧ (WritesDout i → t.err = true)) ∨
      (WritesDout i ∧ t.dv = true ∧ t.err = false) := by
  cases i with
  | nop | ldkey _ | ldiv _ | cbcrst =>
    simp only [exec, execNop, execLdkey, execLdiv, execCbcrst] at h
    obtain ⟨_, rfl⟩ | ⟨_, rfl⟩ := runCommand_cases h <;> exact .inl ⟨rfl, rfl, False.elim⟩
  | clrerr => cases h; exact .inl ⟨rfl, s.clearError_dv, False.elim⟩
  | sub data =>
    simp only [exec, execSub] at h
    obtain ⟨he, rfl⟩ | ⟨he, rfl⟩ := runCommand_cases h
    · exact .inl ⟨rfl, rfl, fun _ => he⟩
    · obtain ⟨_, hd⟩ | ⟨_, hd⟩ := halfBlockOperand_cases data
      · simp only [hd]; exact .inr ⟨trivial, by simp, by simpa using he⟩
      · simp only [hd]; exact .inl ⟨rfl, by simp, fun _ => by simp⟩
  | perm _ | xform _ | ecbe _ | ecbd _ =>
    simp only [exec, execPerm, execXform, execEcbe, execEcbd] at h
    obtain ⟨he, rfl⟩ | ⟨he, rfl⟩ := runCommand_cases h
    · exact .inl ⟨rfl, rfl, fun _ => he⟩
    · exact .inr ⟨trivial, by simp, by simpa using he⟩
  | cbce _ | cbcd _ =>
    simp only [exec, execCbce, execCbcd] at h
    obtain ⟨he, rfl⟩ | ⟨he, rfl⟩ := runCommand_cases h
    · exact .inl ⟨rfl, rfl, fun _ => he⟩
    · exact .inr ⟨trivial, State.writeResult_dv _ _, (State.writeResult_err _ _).trans he⟩

/-- Settles O26: its four clauses in the two cases of a command's end. -/
theorem onlyResultsWriteDoutAndDv : Obligations.OnlyResultsWriteDoutAndDv := by
  intro i s t h
  obtain ⟨hdout, hdv, herr⟩ | ⟨hwrites, hdv, herr⟩ := exec_dout_dv_cases h
  · refine ⟨fun _ => ⟨hdout, hdv⟩, fun hwrites hok => ?_, fun _ => ⟨hdout, hdv⟩, hdv.trans⟩
    simp [herr hwrites] at hok
  · refine ⟨fun hnot => (hnot hwrites).elim, fun _ _ => hdv, fun herr' => ?_, fun _ => hdv⟩
    simp [herr] at herr'

end Sys2Proof.Machine
end

section
/-! Single facts of the state: the reserved error code (spec/10_state.md R23), the values after reset
(R33) and the ports (R26, R32). -/

namespace Sys2Proof.Machine

/-- Item I8: no word is executed at the error code that is never produced. -/
theorem execWord_reservedErrCode (w : CmdWord) {s : State} (h : s.errcode = 3#2) :
    execWord w s = .fault .reservedErrCode := if_pos h

/-- R26: with nothing in progress the ports are the registers. -/
theorem outputs_of_inFlight_none {s : State} (h : s.inFlight = none) :
    s.outputs = ⟨s.cmdReady, s.dout, s.status⟩ := by
  rw [State.outputs, h]

/-- Settles O10: the check for the reserved code stands before the decoder. -/
theorem reservedErrorCodeStops : Obligations.ReservedErrorCodeStops :=
  fun w _ => execWord_reservedErrCode w

/-- Settles O30: each register has its value in `State.reset`. -/
theorem resetValues : Obligations.ResetValues := ⟨rfl, rfl, rfl, rfl, rfl, rfl, rfl⟩

/-- Settles O39: between commands nothing is in progress. -/
theorem portsShowTheRegisters : Obligations.PortsShowTheRegisters := by
  rintro s ⟨hflight, _⟩
  exact outputs_of_inFlight_none hflight

end Sys2Proof.Machine
end

section
/-! The round trip of the encoding (spec/30_encoding.md R44 to R47): the fields of a command and the
command of the fields determine each other. -/

namespace Sys2Proof

theorem CmdFields.wellFormed_iff (f : CmdFields) : f.wellFormed = true ↔ f.fault? = none :=
  beq_iff_eq

/-- R47, R48: the word of a command passes every check. -/
theorem encodeFields_wellFormed (i : Instr) : (encodeFields i).wellFormed = true := by
  cases i with
  | nop => exact Laws.EncodedLegal.nop
  | sub data => exact Laws.EncodedLegal.sub data
  | perm block => exact Laws.EncodedLegal.perm block
  | xform block => exact Laws.EncodedLegal.xform block
  | ecbe block => exact Laws.EncodedLegal.ecbe block
  | ecbd block => exact Laws.EncodedLegal.ecbd block
  | cbce block => exact Laws.EncodedLegal.cbce block
  | cbcd block => exact Laws.EncodedLegal.cbcd block
  | ldkey key => exact Laws.EncodedLegal.ldkey key
  | ldiv iv => exact Laws.EncodedLegal.ldiv iv
  | cbcrst => exact Laws.EncodedLegal.cbcrst
  | clrerr => exact Laws.EncodedLegal.clrerr

/-- R46: `OP` and `DATA` of a command's word name that command. -/
theorem commandOf_encodeFields (i : Instr) :
    commandOf (encodeFields i).op (encodeFields i).data = .legal i := by
  cases i <;> rfl

/-- R46: the fields of the command that an opcode names. -/
theorem encodeFields_of_commandOf {op : BitVec 4} {data : BitVec 8} {i : Instr}
    (h : commandOf op data = .legal i) :
    encodeFields i = ⟨op, 0#4, if takesNoOperand op then 0x00#8 else data⟩ := by
  have hop : BitVec.ofNat 4 op.toNat = op := by simp
  unfold commandOf at h
  split at h <;> cases h <;> (rw [‹op.toNat = _›] at hop; subst hop; rfl)

/-- R47: fields that pass the checks and name a command are that command's fields. -/
theorem encodeFields_of_fault?_eq_none {f : CmdFields} {i : Instr} (hf : f.fault? = none)
    (h : commandOf f.op f.data = .legal i) : encodeFields i = f := by
  obtain ⟨_, hrsv, hdata⟩ := f.fault?_eq_none.mp hf
  have hdata' : (if takesNoOperand f.op then 0x00#8 else f.data) = f.data := by
    split
    · exact (hdata ‹_›).symm
    · rfl
  rw [encodeFields_of_commandOf h, hdata', ← hrsv]

/-- R44, R46: the decoder undoes the encoder. -/
theorem decode_encode (i : Instr) : decode (encode i) = .legal i := by
  have hf : (encodeFields i).fault? = none :=
    (CmdFields.wellFormed_iff _).mp (encodeFields_wellFormed i)
  rw [decode, CmdFields.ofWord_encode, hf]
  exact commandOf_encodeFields i

/-- R44, R47: the encoder undoes the decoder on the legal words. -/
theorem encode_of_decode {w : CmdWord} {i : Instr} (h : decode w = .legal i) : encode i = w := by
  obtain ⟨why, _, hd⟩ | ⟨j, hf, hd, hj⟩ := decode_cases w
  · cases hd.symm.trans h
  · obtain rfl : j = i := Decoded.legal.inj (hd.symm.trans h)
    rw [encode, encodeFields_of_fault?_eq_none hf hj, CmdFields.toWord_ofWord]

/-- Settles O1: the word of a command passes the checks, and its fields name the command. -/
theorem decodeOfEncodeIsTheCommand : Obligations.DecodeOfEncodeIsTheCommand := decode_encode

/-- Settles O2: the fields of a legal word are those of its command. -/
theorem encodeOfDecodeIsTheWord : Obligations.EncodeOfDecodeIsTheWord := fun _ _ => encode_of_decode

/-- Settles O5: the legal words are those of their commands, and 0x0001 is a NOP with `DATA` 1. -/
theorem writtenWordsDecode : Obligations.WrittenWordsDecode :=
  ⟨decode_encode .nop, decode_encode (.sub 0x0D), decode_encode (.perm 0x59),
    decode_encode (.xform 0xCD), decode_encode (.cbce 0x68), decode_encode (.ldiv 0xA5),
    decode_encode .clrerr, by decide⟩

end Sys2Proof
end

section
/-! The value of a word written as a number (spec/30_encoding.md R44), and with it the assembler's
words (R51) and the count of the legal words (R49). -/

namespace Sys2Proof

/-- R44: `OP` counts 0x1000, `RSV` 0x100 and `DATA` 1. -/
theorem CmdFields.toWord_ofNat {op rsv data : Nat} (hrsv : rsv < 16) (hdata : data < 256) :
    (CmdFields.mk (BitVec.ofNat 4 op) (BitVec.ofNat 4 rsv) (BitVec.ofNat 8 data)).toWord =
      BitVec.ofNat 16 (0x1000 * op + (0x100 * rsv + data)) := by
  apply BitVec.eq_of_toNat_eq
  simp only [CmdFields.toWord, BitVec.toNat_append, BitVec.toNat_ofNat]
  rw [← Nat.shiftLeft_add_eq_or_of_lt (by omega), ← Nat.shiftLeft_add_eq_or_of_lt (by omega)]
  simp only [Nat.shiftLeft_eq]
  omega

/-! ## The assembler -/

section
open Machine

/-- R51: the words of a mnemonic that stands for the commands `c`, with opcode `op` and operands
admitted up to `bound`. -/
theorem assembleImm_of_immCommand {m : List Char} {c : BitVec 8 → Instr} {op bound : Nat}
    (hbound : bound ≤ 255) (hm : ∀ imm, immCommand m imm = some (c imm))
    (hfields : ∀ imm, encodeFields (c imm) = ⟨BitVec.ofNat 4 op, 0#4, imm⟩)
    (hrange : ∀ imm, (c imm).assemblable = decide (imm.toNat ≤ bound)) (n : Nat) :
    assembleImm m n = if n ≤ bound then some (BitVec.ofNat 16 (op * 0x1000 + n)) else none := by
  unfold assembleImm
  split
  case isTrue hn =>
    have hword : encode (c (BitVec.ofNat 8 n)) = BitVec.ofNat 16 (op * 0x1000 + n) := by
      rw [encode, hfields, CmdFields.toWord_ofNat (rsv := 0) (by omega) (by omega)]
      congr 1; omega
    have hmod : n % 2 ^ 8 = n := Nat.mod_eq_of_lt (by omega)
    simp only [hm, hrange, hword, BitVec.toNat_ofNat, hmod, decide_eq_true_eq]
  case isFalse hn => rw [if_neg (by omega)]

/-- Settles O6: `SUB` admits operands up to 15, the other mnemonics every byte. -/
theorem assemblerPlacesTheImmediate : Obligations.AssemblerPlacesTheImmediate := by
  have hbyte (imm : BitVec 8) : true = decide (imm.toNat ≤ 255) := by
    simpa using Nat.le_of_lt_succ imm.isLt
  refine ⟨assembleImm_of_immCommand (c := .sub) (op := 1) (by omega) (fun _ => rfl) (fun _ => rfl)
    (fun _ => rfl), fun p hp => ?_⟩
  simp only [List.mem_cons, List.not_mem_nil, or_false] at hp
  obtain rfl | rfl | rfl | rfl | rfl | rfl | rfl | rfl := hp <;>
    exact assembleImm_of_immCommand le_rfl (fun _ => rfl) (fun _ => rfl) hbyte

end

/-! ## The count -/

/-- R49: the legal words are those whose fields pass the checks. -/
theorem isLegal_toWord (f : CmdFields) : isLegal f.toWord = f.wellFormed := by
  rw [Bool.eq_iff_iff, CmdFields.wellFormed_iff, isLegal]
  obtain ⟨why, hf, hd⟩ | ⟨i, hf, hd, _⟩ := decode_cases f.toWord <;>
    rw [CmdFields.ofWord_toWord] at hf <;> simp [hd, hf, Decoded.instr?]

/-- Counting below a product block by block. -/
theorem countP_range_mul (p : Nat → Bool) (b m : Nat) :
    (List.range (b * m)).countP p =
      ∑ k ∈ Finset.range m, (List.range b).countP fun r => p (b * k + r) := by
  induction m with
  | zero => rfl
  | succ m ih =>
    rw [Nat.mul_succ, List.range_add, List.countP_append, ih, List.countP_map,
      Finset.sum_range_succ]
    rfl

/-- R49: how many of the 256 values of `DATA` make a legal word with `OP` and `RSV`. -/
def legalOperands (op rsv : BitVec 4) : Nat :=
  if 0xC#4 ≤ op ∨ rsv ≠ 0#4 then 0 else if takesNoOperand op then 1 else 256

theorem countP_wellFormed (op rsv : BitVec 4) :
    (List.range 256).countP (fun d => (CmdFields.mk op rsv (BitVec.ofNat 8 d)).wellFormed) =
      legalOperands op rsv := by
  unfold legalOperands
  split
  case isTrue hbad =>
    refine List.countP_eq_zero.mpr fun d _ => ?_
    rw [CmdFields.wellFormed_iff, CmdFields.fault?_eq_none]
    rintro ⟨hop, hrsv, _⟩
    exact hbad.elim hop (· hrsv)
  case isFalse hgood =>
    obtain ⟨hop, hrsv⟩ := not_or.mp hgood
    have hlegal (d : Nat) : (CmdFields.mk op rsv (BitVec.ofNat 8 d)).wellFormed =
        (!takesNoOperand op || BitVec.ofNat 8 d == 0x00#8) := by
      rw [Bool.eq_iff_iff, CmdFields.wellFormed_iff, CmdFields.fault?_eq_none]
      simp [hop, not_not.mp hrsv, imp_iff_not_or]
    simp only [hlegal]
    cases takesNoOperand op
    case true =>
      calc (List.range 256).countP (fun d => !true || BitVec.ofNat 8 d == 0x00#8)
          = (List.range 256).count 0 := List.countP_congr fun d hd => by
            have hlt : d < 256 := List.mem_range.mp hd
            simp [← BitVec.toNat_inj, Nat.mod_eq_of_lt hlt]
        _ = 1 := List.count_eq_one_of_mem List.nodup_range (by simp)
    case false => simp

/-- Settles O4: the words are counted row by row, a row being the 256 words that share `OP` and
`RSV`. -/
theorem legalWordsAre2307 : Obligations.LegalWordsAre2307 := by
  unfold Obligations.LegalWordsAre2307
  calc (List.range (0x1000 * 16)).countP (fun n => isLegal (BitVec.ofNat 16 n))
      = ∑ op ∈ Finset.range 16, ∑ rsv ∈ Finset.range 16, (List.range 256).countP fun data =>
          isLegal (BitVec.ofNat 16 (0x1000 * op + (0x100 * rsv + data))) := by
        rw [countP_range_mul]
        exact Finset.sum_congr rfl fun op _ => countP_range_mul _ 0x100 16
    _ = ∑ op ∈ Finset.range 16, ∑ rsv ∈ Finset.range 16,
          legalOperands (BitVec.ofNat 4 op) (BitVec.ofNat 4 rsv) := by
        refine Finset.sum_congr rfl fun op _ => Finset.sum_congr rfl fun rsv hrsv => ?_
        rw [← countP_wellFormed]
        refine List.countP_congr fun data hdata => ?_
        rw [← CmdFields.toWord_ofNat (Finset.mem_range.mp hrsv) (List.mem_range.mp hdata),
          isLegal_toWord]
    _ = 9 * 256 + 3 := by decide

end Sys2Proof
end

section
/-! What a result and an error write (spec/10_state.md R21, R22, spec/60_exceptions.md R87), and with it
the meaning of SUB (spec/40_substitution.md R54). -/

namespace Sys2Proof.Machine

/-- Spec 00_scope.md section 5: a HalfBlock is extended by four zero bits above it. -/
theorem zext8_eq_append (v : HalfBlock) : zext8 v = 0#4 ++ v := by
  revert v; decide

/-- R22: with `ERR = 0` a result sets `DV` and keeps `ERR` and `ERRCODE`. -/
theorem State.writeResult_of_err_false {s : State} (h : s.err = false) (r : BitVec 8) :
    s.writeResult r = { s with dout := r, status := 0#4 ++ s.errcode ++ 0#1 ++ 1#1 } := by
  have herr : statusErr s.status = false := h
  rw [State.writeResult, statusWithResult, packStatus, herr]
  rfl

/-- R87: the first error sets `ERR` and its code, and keeps `DV`. -/
theorem State.raise_of_err_false {s : State} (h : s.err = false) (e : ErrorKind) :
    s.raise e = { s with status := 0#4 ++ e.code ++ 1#1 ++ BitVec.ofBool s.dv } := by
  have herr : ¬ statusErr s.status = true := by simpa [State.err] using h
  rw [State.raise, statusWithError, if_neg herr]
  rfl

/-- R54: an operand in `[0, 15]` is looked up in the S-box. -/
theorem exec_sub_of_operand {data : BitVec 8} {v : HalfBlock} {s : State} (herr : s.err = false)
    (hoperand : halfBlockOperand data = some v) :
    exec (.sub data) s = .next (s.writeResult (zext8 (substitutionSbox v))) := by
  simp only [exec, execSub, runCommand_runs _ herr, hoperand]

/-- R54, R86: an operand outside `[0, 15]` is a domain error. -/
theorem exec_sub_of_no_operand {data : BitVec 8} {s : State} (herr : s.err = false)
    (hoperand : halfBlockOperand data = none) :
    exec (.sub data) s = .next (s.raise .domainError) := by
  simp only [exec, execSub, runCommand_runs _ herr, hoperand]

/-- Settles O12: the high nibble of the operand decides between the result and the error. -/
theorem subWritesTheEntryOrRaises : Obligations.SubWritesTheEntryOrRaises := by
  refine ⟨if_pos rfl, fun data s herr => ?_⟩
  obtain ⟨hhigh, hoperand⟩ | ⟨hhigh, hoperand⟩ := halfBlockOperand_cases data
  · rw [exec_sub_of_operand herr hoperand, State.writeResult_of_err_false herr, zext8_eq_append]
    exact (if_pos hhigh).symm
  · rw [exec_sub_of_no_operand herr hoperand, State.raise_of_err_false herr]
    exact (if_neg hhigh).symm

end Sys2Proof.Machine
end

section
/-! The bit router (spec/41_permutation.md R55 to R59): with a Block read as the function `pos` of
its positions, `permute` composes that function with the table. So what holds of `permute` is read off
the table. -/

namespace Sys2Proof.Machine

/-! ## Any table -/

/-- R55 at the positions of R11. -/
@[simp] theorem pos_permute (pt : PTable) (b : Block) (i : Fin 8) :
    pos (permute pt b) i = pos b (pt i) := pos_blockOfPositions _ i

@[simp] theorem permute_id (b : Block) : permute id b = b := blockOfPositions_pos b

/-- Routing twice is routing once, with the later table looked up first. -/
theorem permute_permute (p q : PTable) (b : Block) :
    permute p (permute q b) = permute (q ∘ p) b :=
  block_ext _ _ fun i => by simp

theorem permute_iterate (pt : PTable) (n : Nat) (b : Block) :
    (permute pt)^[n] b = permute pt^[n] b := by
  induction n generalizing b with
  | zero => exact (permute_id b).symm
  | succ n ih => rw [Function.iterate_succ_apply, ih, permute_permute, Function.iterate_succ']

/-- A Block is left alone when each position holds the bit of its source. -/
theorem permute_eq_self_iff {pt : PTable} {b : Block} :
    permute pt b = b ↔ ∀ i, pos b (pt i) = pos b i := by
  refine ⟨fun h i => ?_, fun h => block_ext _ _ fun i => ?_⟩
  · rw [← pos_permute, h]
  · rw [pos_permute, h]

/-- Only the identity table leaves every Block alone: a position with another source shows in the
Block whose one set bit stands there. -/
theorem forall_permute_eq_self_iff {pt : PTable} : (∀ b, permute pt b = b) ↔ pt = id := by
  refine ⟨fun h => funext fun i => ?_, fun h b => h ▸ permute_id b⟩
  simpa using permute_eq_self_iff.mp (h (blockOfPositions fun j => decide (j = i))) i

/-- A Block is the function of its bits at the positions. -/
def positionsEquiv : Block ≃ (Fin 8 → Bool) where
  toFun := pos
  invFun := blockOfPositions
  left_inv := blockOfPositions_pos
  right_inv f := funext (pos_blockOfPositions f)

theorem positionsEquiv_comp_permute (pt : PTable) :
    positionsEquiv ∘ permute pt = (fun f => f ∘ pt) ∘ positionsEquiv :=
  funext fun b => funext (pos_permute pt b)

/-- R58: composing with the table on the right is one-to-one when the table names every source, and
onto when it names none twice. -/
theorem permute_bijective_iff (pt : PTable) :
    Function.Bijective (permute pt) ↔ Function.Bijective pt :=
  calc Function.Bijective (permute pt)
      ↔ Function.Bijective (positionsEquiv ∘ permute pt) := (positionsEquiv.comp_bijective _).symm
    _ ↔ Function.Bijective fun f : Fin 8 → Bool => f ∘ pt := by
      rw [positionsEquiv_comp_permute, positionsEquiv.bijective_comp]
    _ ↔ Function.Surjective pt ∧ Function.Injective pt :=
      and_congr Function.injective_comp_right_iff_surjective
        Function.surjective_comp_right_iff_injective
    _ ↔ Function.Bijective pt := and_comm

/-- Settles O40: R55 is how `permute` makes the bits. -/
theorem permuteTakesEachSourcePosition : Obligations.PermuteTakesEachSourcePosition := pos_permute

/-! ## The reference table -/

theorem ptable_comp_pinv : Config.ptable ∘ pinv = id := by decide

theorem pinv_comp_ptable : pinv ∘ Config.ptable = id := by decide

theorem ptable_bijective : Function.Bijective Config.ptable :=
  Function.bijective_iff_has_inverse.mpr
    ⟨pinv, congrFun pinv_comp_ptable, congrFun ptable_comp_pinv⟩

/-- Settles O41: bits and results depend on the Block only through the positions the table names. -/
theorem permuteIsBijectiveIffTheTableIs : Obligations.PermuteIsBijectiveIffTheTableIs := by
  refine ⟨permute_bijective_iff, fun pt b i j hij => ?_, fun pt b c hbc => ?_,
    (permute_bijective_iff _).mpr ptable_bijective⟩
  · calc pos (permute pt b) i
        = pos b (pt i) := pos_permute pt b i
      _ = pos b (pt j) := by rw [hij]
      _ = pos (permute pt b) j := (pos_permute pt b j).symm
  · refine block_ext _ _ fun i => ?_
    rw [pos_permute, pos_permute]
    exact hbc i

/-- R56: the eight wires, bit 7 first. -/
theorem permutationBitRouter_eq (b : Block) :
    permutationBitRouter b =
      BitVec.ofBool (b.getLsbD 4) ++ BitVec.ofBool (b.getLsbD 7) ++
        BitVec.ofBool (b.getLsbD 5) ++ BitVec.ofBool (b.getLsbD 3) ++
        BitVec.ofBool (b.getLsbD 1) ++ BitVec.ofBool (b.getLsbD 6) ++
        BitVec.ofBool (b.getLsbD 0) ++ BitVec.ofBool (b.getLsbD 2) := rfl

/-- Settles O13: PERM writes what the router gives, as a result. -/
theorem permWritesThePermutedBits : Obligations.PermWritesThePermutedBits := by
  intro b s herr
  simp only [exec, execPerm, runCommand_runs _ herr]
  rw [State.writeResult_of_err_false herr, permutationBitRouter_eq]

/-! ## Its cycle -/

/-- R57: 0, 3, 4, 6, 7, 5, 1 follow one another in a circle. -/
theorem ptable_cycle (i j : Fin 8) (hi : i ≠ 2) (hj : j ≠ 2) :
    ∃ n : Fin 7, Config.ptable^[n.val] i = j := by
  revert i j; decide

/-- R57: position 0 is back after seven steps and no fewer, and then so is every other. -/
theorem ptable_iterate_eq_id_iff {n : Nat} (hpos : 0 < n) (hle : n ≤ 7) :
    Config.ptable^[n] = id ↔ n = 7 := by
  have hreturn : ∀ m ≤ 7, 0 < m → Config.ptable^[m] 0 = 0 → m = 7 := by decide
  refine ⟨fun h => hreturn n hle hpos (congrFun h 0), ?_⟩
  rintro rfl
  decide

/-- The Block with one bit around the cycle and another at position 2. -/
def cycleBlock (around still : Bool) : Block :=
  blockOfPositions fun i => if i = 2 then still else around

/-- R57: a fixed Block has one bit all around the cycle. -/
theorem eq_cycleBlock_of_fixed {b : Block} (h : permute Config.ptable b = b) :
    b = cycleBlock (pos b 0) (pos b 2) := by
  refine block_ext _ _ fun i => Eq.trans ?_ (pos_blockOfPositions _ i).symm
  split
  case isTrue htwo => rw [htwo]
  case isFalse hne =>
    obtain ⟨n, rfl⟩ := ptable_cycle 0 i (by decide) hne
    have hfixed : permute Config.ptable^[n.val] b = b := by
      rw [← permute_iterate, Function.iterate_fixed h]
    exact permute_eq_self_iff.mp hfixed 0

theorem cycleBlock_mem (around still : Bool) :
    cycleBlock around still = 0x00#8 ∨ cycleBlock around still = 0x20#8 ∨
      cycleBlock around still = 0xDF#8 ∨ cycleBlock around still = 0xFF#8 := by
  revert around still; decide

theorem permute_ptable_eq_self_iff (b : Block) :
    permute Config.ptable b = b ↔ b = 0x00#8 ∨ b = 0x20#8 ∨ b = 0xDF#8 ∨ b = 0xFF#8 := by
  refine ⟨fun h => ?_, ?_⟩
  · rw [eq_cycleBlock_of_fixed h]
    exact cycleBlock_mem _ _
  · rintro (rfl | rfl | rfl | rfl) <;> rfl

/-- Settles O42: its facts are those of the table, of its inverse and of its cycle. -/
theorem referencePermutationFacts : Obligations.ReferencePermutationFacts := by
  refine ⟨⟨rfl, ptable_cycle⟩, fun b => ?_, fun n hpos hle => ?_, permute_ptable_eq_self_iff⟩
  · rw [permute_permute, ptable_comp_pinv, permute_id]
  · simp only [permute_iterate]
    exact forall_permute_eq_self_iff.trans (ptable_iterate_eq_id_iff hpos hle)

end Sys2Proof.Machine
end

section
/-! The single-round transform (spec/42_block_transform.md R60 to R65): a substitution of the low
nibble, a mixing of the two nibbles that undoes itself, and the bit router. -/

namespace Sys2Proof.Machine

/-! ## The round with the reference table -/

/-- R12: the bits of `{m, v}`. -/
theorem getLsbD_joinNibbles (m v : HalfBlock) (i : Nat) :
    (joinNibbles m v).getLsbD i = if i < 4 then v.getLsbD i else m.getLsbD (i - 4) :=
  BitVec.getLsbD_append

/-- R62: where the router takes the bits of `{m, v}`. -/
theorem permutationBitRouter_joinNibbles (m v : HalfBlock) :
    permutationBitRouter (joinNibbles m v) =
      BitVec.ofBool (m.getLsbD 0) ++ BitVec.ofBool (m.getLsbD 3) ++ BitVec.ofBool (m.getLsbD 1) ++
        BitVec.ofBool (v.getLsbD 3) ++ BitVec.ofBool (v.getLsbD 1) ++ BitVec.ofBool (m.getLsbD 2) ++
        BitVec.ofBool (v.getLsbD 0) ++ BitVec.ofBool (v.getLsbD 2) := by
  rw [permutationBitRouter_eq]
  simp only [getLsbD_joinNibbles]
  rfl

/-- R62, R61: the round, whatever the key. -/
theorem transform_ptable (sbox : SBox) (b : Block) (k : Key) :
    transform sbox Config.ptable b k = roundBits sbox b :=
  permutationBitRouter_joinNibbles (highNibble b ^^^ sbox (lowNibble b)) (sbox (lowNibble b))

/-- R65, R68, R69: a command whose result is the transform of its operand under `KEY`. -/
theorem runCommand_writes_round (b : Block) {s : State} (herr : s.err = false) :
    runCommand (fun s => s.writeResult (transform Config.sbox Config.ptable b s.key)) s =
      .next { s with
        dout := roundBits Config.sbox b, status := 0#4 ++ s.errcode ++ 0#1 ++ 1#1 } := by
  rw [runCommand_runs _ herr, transform_ptable, State.writeResult_of_err_false herr]

/-- Settles O43: the router's wires from the two nibbles. -/
theorem transformIsTheRoundForEveryKey : Obligations.TransformIsTheRoundForEveryKey :=
  transform_ptable

/-- Settles O14: the three commands write the same transform as their result (R63). -/
theorem xformAndEcbWriteTheRound : Obligations.XformAndEcbWriteTheRound := by
  rintro b s t herr rfl
  refine ⟨?xform, ?ecbe, ?ecbd⟩
  case xform => exact runCommand_writes_round b herr
  case ecbe | ecbd =>
    simp only [exec, execEcbe, execEcbd, ecbModeController_eq]
    exact runCommand_writes_round b herr

/-! ## Bijectivity -/

/-- A Block is its two nibbles. -/
def nibblesEquiv : Block ≃ HalfBlock × HalfBlock where
  toFun b := (highNibble b, lowNibble b)
  invFun p := joinNibbles p.1 p.2
  left_inv := join_nibbles
  right_inv p := Prod.ext (highNibble_join p.1 p.2) (lowNibble_join p.1 p.2)

/-- Step 3 of R60, the mixing of the high nibble with the substituted low one, undoes itself. -/
def mixEquiv : HalfBlock × HalfBlock ≃ HalfBlock × HalfBlock :=
  Function.Involutive.toPerm (fun p => (p.1 ^^^ p.2, p.2)) fun p => by simp

/-- R60 as a composition: of its steps only the first and the last depend on a table. -/
theorem transform_eq_comp (sbox : SBox) (pt : PTable) (k : Key) :
    (fun b => transform sbox pt b k) =
      permute pt ∘ nibblesEquiv.symm ∘ mixEquiv ∘ Prod.map id sbox ∘ nibblesEquiv := rfl

/-- On a finite type both parts of a bijective composition are bijective. -/
theorem bijective_comp_iff_of_finite {α : Type*} [Finite α] (f g : α → α) :
    Function.Bijective (f ∘ g) ↔ Function.Bijective g ∧ Function.Bijective f := by
  refine ⟨fun h => ?_, fun ⟨hg, hf⟩ => hf.comp hg⟩
  have hg : Function.Bijective g := Finite.injective_iff_bijective.mp h.injective.of_comp
  exact ⟨hg, (Function.Bijective.of_comp_iff f hg).mp h⟩

/-- The steps of R60 before the router are a bijection exactly when the S-box is. -/
theorem mixing_bijective_iff (sbox : SBox) :
    Function.Bijective (nibblesEquiv.symm ∘ mixEquiv ∘ Prod.map id sbox ∘ nibblesEquiv) ↔
      SboxIsPerm sbox := by
  rw [Equiv.comp_bijective, Equiv.comp_bijective, Equiv.bijective_comp, Prod.map_bijective]
  exact and_iff_right Function.bijective_id

/-- Settles O44: each table decides about its own step, and the Blocks are finitely many. -/
theorem transformIsBijectiveIffTheTablesAre : Obligations.TransformIsBijectiveIffTheTablesAre := by
  intro sbox pt k
  have : Finite Block := Finite.of_equiv _ positionsEquiv.symm
  rw [transform_eq_comp, bijective_comp_iff_of_finite, mixing_bijective_iff, permute_bijective_iff]

/-! ## Preimages under the round -/

theorem permute_ptable_eq_iff (c y : Block) : permute Config.ptable c = y ↔ c = permute pinv y := by
  constructor
  · rintro rfl
    rw [permute_permute, ptable_comp_pinv, permute_id]
  · rintro rfl
    rw [permute_permute, pinv_comp_ptable, permute_id]

theorem joinNibbles_eq_iff (m v : HalfBlock) (c : Block) :
    joinNibbles m v = c ↔ m = highNibble c ∧ v = lowNibble c :=
  (Equiv.symm_apply_eq nibblesEquiv (x := (m, v))).trans Prod.mk_inj

/-- R64: the round takes `b` to `y` when the mixed and the substituted nibble are those of `y` routed
back. -/
theorem transform_ptable_eq_iff (sbox : SBox) (b y : Block) (k : Key) :
    transform sbox Config.ptable b k = y ↔
      highNibble b ^^^ sbox (lowNibble b) = highNibble (permute pinv y) ∧
        sbox (lowNibble b) = lowNibble (permute pinv y) :=
  (permute_ptable_eq_iff _ y).trans (joinNibbles_eq_iff _ _ _)

/-- Settles O45: 0x96 goes to 0xCD only if the entry at 0x6 is 0x6 and 0x9 ^ 0x6 is 0xD. -/
theorem transformIsNotItsOwnInverse : Obligations.TransformIsNotItsOwnInverse := by
  intro sbox k hentry
  have hlow : lowNibble 0xCD#8 = 0xD#4 := rfl
  have hround : transform sbox Config.ptable 0xCD#8 k = 0x96#8 := by
    rw [transform_ptable_eq_iff, hlow, hentry]
    decide
  refine ⟨hround, fun hback => ?_⟩
  rw [hround] at hback
  obtain ⟨hmixed, hsub⟩ := (transform_ptable_eq_iff _ _ _ _).mp hback
  rw [hsub] at hmixed
  exact absurd hmixed (by decide)

end Sys2Proof.Machine
end

section
/-! The runs of the ECB pseudo-instructions (spec/43_ecb_mode.md R66 to R70, spec/30_encoding.md R52).
Each word of a run is accepted in a state between commands and leaves one, so a run is followed word by
word; ECBE and ECBD differ only in the direction they select, which the round does not use (R63). -/

namespace Sys2Proof.Machine

/-! ## Words accepted between commands -/

theorem State.breaksDuty_of_waiting_none {s : State} (h : s.waiting = none) (offer : Option CmdWord) :
    s.breaksDuty offer = false := by
  rw [State.breaksDuty, h]

theorem settle_of_inFlight_none {s : State} (h : s.inFlight = none) :
    settle s = .next s.becomeReady := by
  rw [settle, h]

/-- R103: between commands a presented word is counted and executed. -/
theorem acceptCommand_of_settled (w : CmdWord) {s : State} (h : s.Settled) :
    acceptCommand w s = execWord w s.becomeReady.countCommand := by
  obtain ⟨hflight, hwaiting⟩ := h
  simp [acceptCommand, State.breaksDuty_of_waiting_none hwaiting, settle_of_inFlight_none hflight]

/-- R89: a legal word executes its command. -/
theorem execWord_of_legal {w : CmdWord} {i : Instr} {s : State} (hcode : s.errcode ≠ 3#2)
    (hd : decode w = .legal i) : execWord w s = exec i s := by
  rw [execWord, if_neg hcode, hd]

/-- The states in which the commands of a run are executed: between commands, with no error. -/
structure State.Executes (s : State) : Prop where
  settled : s.Settled
  err : s.err = false
  errcode : s.errcode ≠ 3#2

/-- What accepting a word does before its command runs keeps such a state. -/
theorem State.Executes.accept {s : State} (h : s.Executes) : s.becomeReady.countCommand.Executes :=
  ⟨⟨rfl, rfl⟩, h.err, h.errcode⟩

theorem State.Executes.setKey {s : State} (h : s.Executes) (k : Key) : (s.setKey k).Executes :=
  ⟨h.settled, h.err, h.errcode⟩

theorem State.Executes.writeResult {s : State} (h : s.Executes) (r : BitVec 8) :
    (s.writeResult r).Executes :=
  ⟨h.settled, by simpa using h.err, by simpa using h.errcode⟩

/-- The word of a command executes that command (R46, R89). -/
theorem acceptCommand_encode (i : Instr) {s : State} (h : s.Executes) :
    acceptCommand (encode i) s = exec i s.becomeReady.countCommand := by
  rw [acceptCommand_of_settled _ h.settled, execWord_of_legal h.accept.errcode (decode_encode i)]

/-- R82: LDKEY writes `KEY` alone. -/
theorem acceptCommand_ldkey (k : Key) {s : State} (h : s.Executes) :
    acceptCommand (encode (.ldkey k)) s = .next (s.becomeReady.countCommand.setKey k) := by
  rw [acceptCommand_encode _ h, exec, execLdkey, runCommand_runs _ h.accept.err]

/-! ## The block commands -/

/-- R30: the command that selects a direction of `ecb_mode_controller`. -/
def ecbCommand : EcbDir → Block → Instr
  | .encrypt => .ecbe
  | .decrypt => .ecbd

/-- R68, R69: in both directions the result is the transform under `KEY`. -/
theorem exec_ecbCommand (d : EcbDir) (b : Block) {s : State} (herr : s.err = false) :
    exec (ecbCommand d b) s =
      .next (s.writeResult (transform Config.sbox Config.ptable b s.key)) := by
  cases d with
  | encrypt => rw [ecbCommand, exec, execEcbe, runCommand_runs _ herr, ecbModeController_eq]
  | decrypt => rw [ecbCommand, exec, execEcbd, runCommand_runs _ herr, ecbModeController_eq]

theorem acceptCommand_ecbCommand (d : EcbDir) (b : Block) {s : State} (h : s.Executes) :
    acceptCommand (encode (ecbCommand d b)) s =
      .next (s.becomeReady.countCommand.writeResult
        (transform Config.sbox Config.ptable b s.key)) :=
  (acceptCommand_encode _ h).trans (exec_ecbCommand d b h.err)

/-- The block commands of a run transform each Block under `KEY`, which they keep. The induction carries
`DV` as it goes: a result sets it, and no later one clears it (R22). -/
theorem runWords_ecbCommands (d : EcbDir) (bs : List Block) {s : State} (h : s.Executes) :
    ∃ os t, runWords (bs.map fun b => encode (ecbCommand d b)) s = .done os t ∧
      os.map (·.dout) = bs.map (fun b => transform Config.sbox Config.ptable b s.key) ∧
      t.key = s.key ∧ (s.dv = true ∨ bs ≠ [] → t.dv = true) ∧ t.iv = s.iv ∧ t.chain = s.chain := by
  induction bs generalizing s with
  | nil => exact ⟨[], s, rfl, rfl, rfl, by simp, rfl, rfl⟩
  | cons b bs ih =>
    have hword := acceptCommand_ecbCommand d b h
    obtain ⟨os, t, hrun, hdouts, hkey, hdv, hiv, hchain⟩ :=
      ih (h.accept.writeResult (transform Config.sbox Config.ptable b s.key))
    exact ⟨_, t, runWords_next hword hrun, congrArg _ hdouts, hkey,
      fun _ => hdv (.inl (State.writeResult_dv _ _)), hiv, hchain⟩

/-! ## The pseudo-instructions -/

/-- R70 for one direction: the block commands find `key` in `KEY`, and what is observed after LDKEY is no
result (R52). -/
theorem runWords_ecb (d : EcbDir) (key : Key) (bs : List Block) {s : State} (h : s.Executes) :
    ∃ os t, runWords (encode (.ldkey key) :: bs.map fun b => encode (ecbCommand d b)) s =
        .done os t ∧
      resultSequence 1 os = bs.map (fun b => transform Config.sbox Config.ptable b key) ∧
      t.key = key ∧ (bs ≠ [] → t.dv = true) ∧ t.iv = s.iv ∧ t.chain = s.chain := by
  obtain ⟨os, t, hrun, hdouts, hkey, hdv, hiv, hchain⟩ :=
    runWords_ecbCommands d bs (h.accept.setKey key)
  exact ⟨_, t, runWords_next (acceptCommand_ldkey key h) hrun, hdouts, hkey,
    fun hbs => hdv (.inr hbs), hiv, hchain⟩

/-- Settles O46: `ECBENC` and `ECBDEC` are the run of R70 in their directions, and `ecbEncrypt` and
`ecbDecrypt` are the same map of the transform (R66, R67). -/
theorem ecbRunsComputeTheSequence : Obligations.EcbRunsComputeTheSequence := by
  intro key bs s hsettled herr hcode
  have h : s.Executes := ⟨hsettled, herr, hcode⟩
  exact ⟨runWords_ecb .encrypt key bs h, runWords_ecb .decrypt key bs h⟩

end Sys2Proof.Machine
end

section
/-! The commands that use `CHAIN` (spec/44_cbc_mode.md R73 to R76): what each of them writes, and that
the others neither read nor write it (R78). -/

namespace Sys2Proof.Machine

/-! ## The block functions of the mode -/

/-- R71, R75: a Block is mixed with the previous ciphertext and then transformed. -/
def cbcEncryptBlock (sbox : SBox) (pt : PTable) (key : Key) (b previous : Block) : Block :=
  transform sbox pt (b ^^^ previous) key

/-- R72, R76: a ciphertext is transformed and then mixed with the previous ciphertext. -/
def cbcDecryptBlock (sbox : SBox) (pt : PTable) (key : Key) (c previous : Block) : Block :=
  transform sbox pt c key ^^^ previous

/-! ## What each command writes -/

/-- R75: the new ciphertext is the result and the next `CHAIN`. -/
theorem exec_cbce (b : Block) {s : State} (herr : s.err = false) :
    exec (.cbce b) s =
      .next ((s.setChain (cbcEncryptBlock Config.sbox Config.ptable s.key b s.chain)).writeResult
        (cbcEncryptBlock Config.sbox Config.ptable s.key b s.chain)) := by
  rw [exec, execCbce, runCommand_runs _ herr]
  rfl

/-- R76: the ciphertext that came in is the next `CHAIN`. -/
theorem exec_cbcd (c : Block) {s : State} (herr : s.err = false) :
    exec (.cbcd c) s =
      .next ((s.setChain c).writeResult
        (cbcDecryptBlock Config.sbox Config.ptable s.key c s.chain)) := by
  rw [exec, execCbcd, runCommand_runs _ herr]
  rfl

theorem exec_ldiv (v : Block) {s : State} (herr : s.err = false) :
    exec (.ldiv v) s = .next ((s.setIv v).setChain v) := by
  rw [exec, execLdiv, runCommand_runs _ herr]
  rfl

theorem exec_cbcrst {s : State} (herr : s.err = false) :
    exec .cbcrst s = .next (s.setChain s.iv) := by
  rw [exec, execCbcrst, runCommand_runs _ herr]
  rfl

/-- Settles O17: LDIV's writes are those two. -/
theorem ldivLoadsIvAndChain : Obligations.LdivLoadsIvAndChain := fun v _ => exec_ldiv v

/-- Settles O18: CBCRST's write is that one. -/
theorem cbcrstReloadsChain : Obligations.CbcrstReloadsChain := fun _ => exec_cbcrst

/-- With `ERR = 0`, a result and a new `CHAIN` written together change `DOUT`, `CHAIN` and `DV` (R22,
R38). -/
theorem State.setChain_writeResult_of_err_false {s : State} (herr : s.err = false) (c r : Block) :
    (s.setChain c).writeResult r =
      { s with dout := r, chain := c, status := 0#4 ++ s.errcode ++ 0#1 ++ 1#1 } :=
  State.writeResult_of_err_false (s := s.setChain c) herr r

/-- Settles O15: the ciphertext is the round of R62. -/
theorem cbceChainsOnTheOutput : Obligations.CbceChainsOnTheOutput := by
  intro b s herr
  rw [exec_cbce b herr, cbcEncryptBlock, transform_ptable,
    State.setChain_writeResult_of_err_false herr]

/-- Settles O16: the transform in the result is the round of R62. -/
theorem cbcdChainsOnTheInput : Obligations.CbcdChainsOnTheInput := by
  intro c s herr
  rw [exec_cbcd c herr, cbcDecryptBlock, transform_ptable,
    State.setChain_writeResult_of_err_false herr]

/-! ## The commands that do not use `CHAIN` -/

/-- R78: a command other than LDIV, CBCRST, CBCE and CBCD does the same whatever `CHAIN` is, and passes
it on. -/
theorem exec_setChain {i : Instr} (hi : ¬ UsesChain i) (s : State) (c : Block) :
    exec i (s.setChain c) = Result.andThen (exec i s) fun t => .next (t.setChain c) := by
  cases i with
  | cbce _ | cbcd _ | ldiv _ | cbcrst => exact (hi trivial).elim
  | clrerr => rfl
  | sub data =>
    simp only [exec, execSub]
    refine runCommand_commutes (·.setChain c) rfl ?_
    cases halfBlockOperand data <;> rfl
  | nop | perm _ | xform _ | ecbe _ | ecbd _ | ldkey _ =>
    simp only [exec, execNop, execPerm, execXform, execEcbe, execEcbd, execLdkey]
    exact runCommand_commutes (·.setChain c) rfl rfl

/-- Settles O24: each such command commutes with replacing `CHAIN`. -/
theorem onlyCbcCommandsUseChain : Obligations.OnlyCbcCommandsUseChain := by
  intro i s t c hi h
  refine ⟨?kept, ?passed_on⟩
  case kept =>
    exact kept_of_commutes State.setChain_chain (fun _ => rfl) (exec_setChain hi s) h
  case passed_on => exact (exec_setChain hi s c).trans (by rw [h, andThen_next]; rfl)

end Sys2Proof.Machine
end

section
/-! The sequence functions of CBC (spec/44_cbc_mode.md R71, R72, R79, R80): encryption carries its last
output along, decryption only the ciphertext it has just read. -/

namespace Sys2Proof.Machine

/-! ## Encryption chains on its outputs -/

@[simp] theorem cbcEncrypt_length (sbox : SBox) (pt : PTable) (bs : List Block) (key : Key)
    (iv : Block) : (cbcEncrypt sbox pt bs key iv).length = bs.length := by
  induction bs generalizing iv with
  | nil => rfl
  | cons b bs ih => exact congrArg Nat.succ (ih _)

/-- R71: a sequence is continued with its last ciphertext in the place of the IV. -/
theorem cbcEncrypt_append (sbox : SBox) (pt : PTable) (bs cs : List Block) (key : Key) (iv : Block) :
    cbcEncrypt sbox pt (bs ++ cs) key iv =
      cbcEncrypt sbox pt bs key iv ++
        cbcEncrypt sbox pt cs key ((cbcEncrypt sbox pt bs key iv).getLastD iv) := by
  induction bs generalizing iv with
  | nil => rfl
  | cons b bs ih => simp only [List.cons_append, cbcEncrypt, ih, List.getLastD_cons]

/-- Settles O48: what is appended to the sequence is appended to the outputs. -/
theorem cbcEncryptionLooksOnlyBack : Obligations.CbcEncryptionLooksOnlyBack := by
  intro sbox pt bs cs key iv
  rw [cbcEncrypt_append]
  exact List.take_left' (cbcEncrypt_length ..)

/-- R64: with a permutation S-box the round takes no two Blocks to the same one. -/
theorem transform_ptable_injective {sbox : SBox} (hs : SboxIsPerm sbox) (key : Key) :
    Function.Injective fun b => transform sbox Config.ptable b key :=
  ((transformIsBijectiveIffTheTablesAre sbox Config.ptable key).mpr ⟨hs, ptable_bijective⟩).injective

/-- R79: after two different ciphertexts the same Blocks have different ciphertexts throughout. -/
theorem cbcEncrypt_ne_of_ne {sbox : SBox} {pt : PTable} {key : Key}
    (hinj : Function.Injective fun b => transform sbox pt b key) (bs : List Block) {y z : Block}
    (hne : y ≠ z) {j : Nat} (hj : j ≤ bs.length) :
    (y :: cbcEncrypt sbox pt bs key y)[j]? ≠ (z :: cbcEncrypt sbox pt bs key z)[j]? := by
  induction bs generalizing y z j with
  | nil =>
    obtain rfl : j = 0 := by simpa using hj
    simpa using hne
  | cons b bs ih =>
    cases j with
    | zero => simpa using hne
    | succ j =>
      have hmixed : b ^^^ y ≠ b ^^^ z := fun h => hne ((BitVec.xor_right_inj b).mp h)
      simpa only [List.getElem?_cons_succ, cbcEncrypt] using
        ih (hinj.ne hmixed) (Nat.le_of_succ_le_succ hj)

/-- Settles O49: before the change the outputs are those of the common beginning; the changed block has
two different ciphertexts, and so has every later one. -/
theorem cbcEncryptionSpreadsAChange : Obligations.CbcEncryptionSpreadsAChange := by
  intro sbox before after b c key iv hs hne j hj
  have hinj := transform_ptable_injective hs key
  rw [cbcEncrypt_append, cbcEncrypt_append]
  generalize (cbcEncrypt sbox Config.ptable before key iv).getLastD iv = p
  obtain hlt | hge := Nat.lt_or_ge j before.length
  · simp [List.getElem?_append_left, hlt]
  · have hmixed : b ^^^ p ≠ c ^^^ p := fun h => hne ((BitVec.xor_left_inj p).mp h)
    have hindex : j - before.length ≤ after.length := by omega
    have hdiffer := cbcEncrypt_ne_of_ne hinj after (hinj.ne hmixed) hindex
    rw [List.getElem?_append_right (by simpa using hge),
      List.getElem?_append_right (by simpa using hge), cbcEncrypt_length]
    exact iff_of_false hdiffer (Nat.not_lt.mpr hge)

/-! ## Decryption chains on its inputs -/

/-- Settles O50: at each ciphertext `previous` is the one before it. -/
theorem cbcDecryptionIsLocal : Obligations.CbcDecryptionIsLocal := by
  intro sbox pt cs key iv
  induction cs generalizing iv with
  | nil => rfl
  | cons c cs ih => exact congrArg _ (ih c)

/-! ## The round trip -/

/-- Settles O51: encryption and decryption carry the same ciphertext along, so the round trip asks each
Block by itself for `T(T(b ^ previous)) ^ previous = b`. -/
theorem cbcRoundTripExactlyAtFixedPoints : Obligations.CbcRoundTripExactlyAtFixedPoints := by
  rintro sbox pt bs _ key iv rfl
  induction bs generalizing iv with
  | nil => simp [cbcEncrypt, cbcDecrypt]
  | cons b bs ih =>
    have hfirst : transform sbox pt (transform sbox pt (b ^^^ iv) key) key ^^^ iv = b ↔
        transform sbox pt (transform sbox pt (b ^^^ iv) key) key = b ^^^ iv :=
      xor_eq_iff_left_eq _ _ _
    simp only [cbcEncrypt, cbcDecrypt, List.zipWith_cons_cons, List.forall_mem_cons,
      List.cons.injEq, hfirst, ih]

end Sys2Proof.Machine
end

section
/-! The runs of the CBC pseudo-instructions (spec/44_cbc_mode.md R77, spec/30_encoding.md R52): CBCE and
CBCD are block commands whose result and whose next `CHAIN` are functions of `KEY`, the operand and
`CHAIN`, so one run is followed for both. -/

namespace Sys2Proof.Machine

/-! ## Chained sequences -/

/-- The values of `f` on each Block and the chained value before it; `next` gives the chained value
after it. -/
def chainedMap (f next : Block → Block → Block) : List Block → Block → List Block
  | [], _ => []
  | b :: bs, previous => f b previous :: chainedMap f next bs (next b previous)

/-- R71: the result is chained. -/
theorem chainedMap_cbcEncryptBlock (sbox : SBox) (pt : PTable) (bs : List Block) (key : Key)
    (iv : Block) :
    chainedMap (cbcEncryptBlock sbox pt key) (cbcEncryptBlock sbox pt key) bs iv =
      cbcEncrypt sbox pt bs key iv := by
  induction bs generalizing iv with
  | nil => rfl
  | cons b bs ih => exact congrArg _ (ih _)

/-- R72: the input is chained. -/
theorem chainedMap_cbcDecryptBlock (sbox : SBox) (pt : PTable) (cs : List Block) (key : Key)
    (iv : Block) :
    chainedMap (cbcDecryptBlock sbox pt key) (fun c _ => c) cs iv =
      cbcDecrypt sbox pt cs key iv := by
  induction cs generalizing iv with
  | nil => rfl
  | cons c cs ih => exact congrArg _ (ih _)

theorem chainedMap_input (cs : List Block) (iv : Block) :
    chainedMap (fun c _ => c) (fun c _ => c) cs iv = cs := by
  induction cs generalizing iv with
  | nil => rfl
  | cons c cs ih => exact congrArg _ (ih _)

/-! ## Runs of a block command that chains -/

/-- With `ERR = 0` the command writes `result` to `DOUT` and `next` to `CHAIN`, both of `KEY`, the
operand and `CHAIN`. -/
def ChainsBlocks (command : Block → Instr) (result next : Key → Block → Block → Block) : Prop :=
  ∀ (b : Block) (s : State), s.err = false →
    exec (command b) s =
      .next ((s.setChain (next s.key b s.chain)).writeResult (result s.key b s.chain))

theorem cbce_chainsBlocks :
    ChainsBlocks .cbce (cbcEncryptBlock Config.sbox Config.ptable)
      (cbcEncryptBlock Config.sbox Config.ptable) :=
  fun b _ => exec_cbce b

theorem cbcd_chainsBlocks :
    ChainsBlocks .cbcd (cbcDecryptBlock Config.sbox Config.ptable) (fun _ c _ => c) :=
  fun c _ => exec_cbcd c

theorem State.Executes.setIv {s : State} (h : s.Executes) (v : Block) : (s.setIv v).Executes :=
  ⟨h.settled, h.err, h.errcode⟩

theorem State.Executes.setChain {s : State} (h : s.Executes) (c : Block) : (s.setChain c).Executes :=
  ⟨h.settled, h.err, h.errcode⟩

theorem acceptCommand_ldiv (v : Block) {s : State} (h : s.Executes) :
    acceptCommand (encode (.ldiv v)) s =
      .next ((s.becomeReady.countCommand.setIv v).setChain v) :=
  (acceptCommand_encode _ h).trans (exec_ldiv v h.accept.err)

section BlockCommands

variable {command : Block → Instr} {result next : Key → Block → Block → Block}

/-- The block commands of a run give the chained results, starting from `CHAIN`, and leave the last
chained value there; they keep `KEY` and `IV`. -/
theorem runWords_chainedCommands (hc : ChainsBlocks command result next) (bs : List Block)
    {s : State} (h : s.Executes) :
    ∃ os t, runWords (bs.map fun b => encode (command b)) s = .done os t ∧
      os.map (·.dout) = chainedMap (result s.key) (next s.key) bs s.chain ∧
      t.chain = (chainedMap (next s.key) (next s.key) bs s.chain).getLastD s.chain ∧
      t.key = s.key ∧ t.iv = s.iv := by
  induction bs generalizing s with
  | nil => exact ⟨[], s, rfl, rfl, rfl, rfl, rfl⟩
  | cons b bs ih =>
    have hword := (acceptCommand_encode (command b) h).trans (hc b _ h.accept.err)
    obtain ⟨os, t, hrun, hdouts, hchain, hkey, hiv⟩ :=
      ih ((h.accept.setChain (next s.key b s.chain)).writeResult (result s.key b s.chain))
    exact ⟨_, t, runWords_next hword hrun, congrArg _ hdouts,
      hchain.trans List.getLastD_cons.symm, hkey, hiv⟩

/-- R77 for one command: its run finds `key` in `KEY` and `iv` in `CHAIN`, and what is observed after
LDKEY and LDIV is no result (R52). -/
theorem runWords_cbc (hc : ChainsBlocks command result next) (key : Key) (iv : Block)
    (bs : List Block) {s : State} (h : s.Executes) :
    ∃ os t, runWords (encode (.ldkey key) :: encode (.ldiv iv) ::
        bs.map fun b => encode (command b)) s = .done os t ∧
      resultSequence 2 os = chainedMap (result key) (next key) bs iv ∧
      t.chain = (chainedMap (next key) (next key) bs iv).getLastD iv ∧ t.key = key ∧ t.iv = iv := by
  have hkeyed := h.accept.setKey key
  obtain ⟨os, t, hrun, hdouts, hchain, hkey, hiv⟩ :=
    runWords_chainedCommands hc bs ((hkeyed.accept.setIv iv).setChain iv)
  exact ⟨_, t, runWords_next (acceptCommand_ldkey key h)
    (runWords_next (acceptCommand_ldiv iv hkeyed) hrun), hdouts, hchain, hkey, hiv⟩

end BlockCommands

/-- Settles O47: `CBCENC` chains the results of CBCE, and `CBCDEC` the operands of CBCD. -/
theorem cbcRunsComputeTheSequence : Obligations.CbcRunsComputeTheSequence := by
  intro key iv bs s hsettled herr hcode
  have h : s.Executes := ⟨hsettled, herr, hcode⟩
  have henc := runWords_cbc cbce_chainsBlocks key iv bs h
  have hdec := runWords_cbc cbcd_chainsBlocks key iv bs h
  rw [chainedMap_cbcEncryptBlock] at henc
  rw [chainedMap_cbcDecryptBlock, chainedMap_input] at hdec
  exact ⟨henc, hdec⟩

end Sys2Proof.Machine
end

section
/-! The system commands (spec/45_system.md R81 to R83): what each writes, and that no stream of words
shows the keys it loads (R82). -/

namespace Sys2Proof.Machine

/-! ## What each command writes -/

/-- R81: NOP's body writes nothing, so it makes no difference whether it runs. -/
theorem exec_nop (s : State) : exec .nop s = .next s := by
  rw [exec, execNop]
  cases herr : s.err with
  | true => exact runCommand_discards _ herr
  | false => exact runCommand_runs _ herr

theorem exec_ldkey_discarded (k : Key) {s : State} (herr : s.err = true) :
    exec (.ldkey k) s = .next s := by
  rw [exec, execLdkey, runCommand_discards _ herr]

theorem exec_ldkey (k : Key) {s : State} (herr : s.err = false) :
    exec (.ldkey k) s = .next (s.setKey k) := by
  rw [exec, execLdkey, runCommand_runs _ herr]

/-- Settles O11: discarded or not, NOP leaves the state. -/
theorem nopChangesNothing : Obligations.NopChangesNothing := exec_nop

/-- Settles O19: LDKEY's one write is that of `KEY`. -/
theorem ldkeyLoadsKey : Obligations.LdkeyLoadsKey := fun k _ => exec_ldkey k

/-- Settles O20: CLRERR is not guarded, and the status it writes is packed from `DV` and zeros. -/
theorem clrerrClearsTheError : Obligations.ClrerrClearsTheError := fun _ => rfl

/-! ## Outcomes that differ in `KEY` alone

A word that is not LDKEY passes on whatever `KEY` is (R61); LDKEY writes `KEY`, or is discarded. So the
outcomes of two words that are the same but for the operand of LDKEY differ at most in `KEY`. -/

/-- The second outcome is the first but for the value of `KEY`: both are next states, or both are the
same stop. -/
def SameButKeyRegister (o o' : Result) : Prop :=
  ∃ k, o' = Result.andThen o fun t => .next (t.setKey k)

theorem exec_ldkey_sameButKeyRegister (x l k : Key) (s : State) :
    SameButKeyRegister (exec (.ldkey x) s) (exec (.ldkey l) (s.setKey k)) := by
  have herr' : (s.setKey k).err = s.err := rfl
  cases herr : s.err with
  | true =>
    rw [exec_ldkey_discarded x herr, exec_ldkey_discarded l (herr'.trans herr)]
    exact ⟨k, rfl⟩
  | false =>
    rw [exec_ldkey x herr, exec_ldkey l (herr'.trans herr)]
    exact ⟨l, rfl⟩

theorem exec_sameButKeyRegister (i : Instr) (k : Key) (s : State) :
    SameButKeyRegister (exec i s) (exec i (s.setKey k)) := by
  by_cases hldkey : ∃ x, i = .ldkey x
  · obtain ⟨x, rfl⟩ := hldkey
    exact exec_ldkey_sameButKeyRegister x x k s
  · exact ⟨k, exec_setKey i (fun x hx => hldkey ⟨x, hx⟩) s k⟩

/-- R89: an illegal word raises its error, unless it is discarded. -/
theorem execWord_of_illegal {w : CmdWord} {why : IllegalReason} {s : State} (hcode : s.errcode ≠ 3#2)
    (hd : decode w = .illegal why) :
    execWord w s = runCommand (fun s => s.raise .illegalCommand) s := by
  rw [execWord, if_neg hcode, hd]

theorem execWord_sameButKeyRegister {w v : CmdWord} (h : SameButKey w v) (k : Key) (s : State) :
    SameButKeyRegister (execWord w s) (execWord v (s.setKey k)) := by
  by_cases hcode : s.errcode = 3#2
  · rw [execWord_reservedErrCode w hcode, execWord_reservedErrCode v (s := s.setKey k) hcode]
    exact ⟨k, rfl⟩
  · have hcode' : (s.setKey k).errcode ≠ 3#2 := hcode
    obtain rfl | ⟨x, l, rfl, rfl⟩ := h
    · cases hd : decode w with
      | legal i =>
        rw [execWord_of_legal hcode hd, execWord_of_legal hcode' hd]
        exact exec_sameButKeyRegister i k s
      | illegal why =>
        rw [execWord_of_illegal hcode hd, execWord_of_illegal hcode' hd]
        exact ⟨k, runCommand_commutes (·.setKey k) rfl rfl⟩
    · rw [execWord_of_legal hcode (decode_encode _), execWord_of_legal hcode' (decode_encode _)]
      exact exec_ldkey_sameButKeyRegister x l k s

theorem acceptCommand_sameButKeyRegister {w v : CmdWord} (h : SameButKey w v) (k : Key) {s : State}
    (hs : s.Settled) : SameButKeyRegister (acceptCommand w s) (acceptCommand v (s.setKey k)) := by
  have hs' : (s.setKey k).Settled := hs
  rw [acceptCommand_of_settled w hs, acceptCommand_of_settled v hs']
  exact execWord_sameButKeyRegister h k s.becomeReady.countCommand

/-! ## Runs from a state between commands -/

/-- No command touches the handshake, so it ends between commands if it begins there. -/
theorem exec_keeps_settled {i : Instr} {s t : State} (hs : s.Settled) (h : exec i s = .next t) :
    t.Settled := by
  obtain rfl | ⟨_, rfl⟩ | ⟨_, _, rfl⟩ | ⟨_, _, rfl⟩ | ⟨_, rfl⟩ | ⟨_, rfl⟩ | ⟨_, rfl⟩ | rfl :=
    exec_writes h <;> exact hs

theorem execWord_keeps_settled {w : CmdWord} {s t : State} (hs : s.Settled)
    (h : execWord w s = .next t) : t.Settled := by
  obtain ⟨_, ⟨i, _, hi⟩ | ⟨_, _, ⟨_, rfl⟩ | ⟨_, rfl⟩⟩⟩ := execWord_cases h
  · exact exec_keeps_settled hs hi
  · exact hs
  · exact hs

/-- R103: a word accepted between commands leaves the machine between commands. -/
theorem acceptCommand_keeps_settled {w : CmdWord} {s t : State} (hs : s.Settled)
    (h : acceptCommand w s = .next t) : t.Settled := by
  rw [acceptCommand_of_settled w hs] at h
  exact execWord_keeps_settled ⟨rfl, rfl⟩ h

/-- R98: what is observed after the first word, and then the rest. -/
theorem observed?_runWords_of_next {w : CmdWord} {s t : State} (ws : List CmdWord)
    (h : acceptCommand w s = .next t) :
    (runWords (w :: ws) s).observed? = (runWords ws t).observed?.map (t.observe :: ·) := by
  simp only [runWords, h]
  cases runWords ws t <;> rfl

/-- A run whose first word has no next state shows nothing. -/
theorem observed?_runWords_of_stop {w : CmdWord} {s : State} (ws : List CmdWord)
    (h : ∀ t, acceptCommand w s ≠ .next t) : (runWords (w :: ws) s).observed? = none := by
  cases hrun : runWords (w :: ws) s with
  | stopped => rfl
  | done os last =>
    obtain ⟨t, _, ht, _⟩ := runWords_cons hrun
    exact (h t ht).elim

/-- R82 for every key in the register: word by word, the two runs stay in states that differ in `KEY`
alone, and `KEY` is not observed. -/
theorem observed?_runWords_setKey {ws vs : List CmdWord} (h : List.Forall₂ SameButKey ws vs)
    {s : State} (hs : s.Settled) (k : Key) :
    (runWords ws s).observed? = (runWords vs (s.setKey k)).observed? := by
  induction h generalizing s k with
  | nil => rfl
  | @cons w v ws vs hwv _ ih =>
    obtain ⟨k', hv⟩ := acceptCommand_sameButKeyRegister hwv k hs
    cases hw : acceptCommand w s with
    | next t =>
      rw [hw, andThen_next] at hv
      rw [observed?_runWords_of_next ws hw, observed?_runWords_of_next vs hv,
        ih (acceptCommand_keeps_settled hs hw) k']
      rfl
    | fault r | refused r =>
      rw [hw] at hv
      rw [observed?_runWords_of_stop ws (by simp [hw]),
        observed?_runWords_of_stop vs (by simp [hv, Result.andThen])]

/-- Settles O52: replacing `KEY` is the write `setKey`. -/
theorem keysAreNeverObservable : Obligations.KeysAreNeverObservable :=
  fun _ _ _ k hs h => observed?_runWords_setKey h hs k

end Sys2Proof.Machine
end

section
/-! The errors (spec/60_exceptions.md R84 to R90): which words raise one, what an accepted word does by
R89's checks, and that a raised error writes its code and nothing else. -/

namespace Sys2Proof

/-! ## The illegal words -/

theorem takesNoOperand_iff (op : BitVec 4) :
    takesNoOperand op = true ↔ op = 0x0#4 ∨ op = 0xA#4 ∨ op = 0xB#4 := by
  simp [takesNoOperand, or_assoc]

/-- R49: a word decodes to a command exactly when its fields pass the checks. -/
theorem exists_decode_legal_iff (w : CmdWord) :
    (∃ i, decode w = .legal i) ↔ (CmdFields.ofWord w).fault? = none := by
  obtain ⟨why, hf, hd⟩ | ⟨i, hf, hd, _⟩ := decode_cases w <;> simp [hf, hd]

theorem exists_decode_illegal {w : CmdWord} (h : ∀ i, decode w ≠ .legal i) :
    ∃ why, decode w = .illegal why := by
  cases hd : decode w with
  | legal i => exact (h i hd).elim
  | illegal why => exact ⟨why, rfl⟩

/-- R85: the three ways to be illegal are the three checks of R49. -/
theorem decode_ne_legal_iff (w : CmdWord) :
    (∀ i, decode w ≠ .legal i) ↔
      0xC#4 ≤ w.extractLsb' 12 4 ∨ w.extractLsb' 8 4 ≠ 0#4 ∨
        ((w.extractLsb' 12 4 = 0x0#4 ∨ w.extractLsb' 12 4 = 0xA#4 ∨ w.extractLsb' 12 4 = 0xB#4) ∧
          w.extractLsb' 0 8 ≠ 0#8) := by
  rw [← not_exists, exists_decode_legal_iff, CmdFields.fault?_eq_none, takesNoOperand_iff]
  dsimp only [CmdFields.ofWord]
  tauto

/-! ## The words outside SUB's domain -/

/-- R86: a SUB whose operand is not in `[0, 15]`. -/
def Instr.OutOfDomain (i : Instr) : Prop := ∃ data, i = .sub data ∧ Machine.highNibble data ≠ 0#4

theorem ofWord_of_decode {w : CmdWord} {i : Instr} (h : decode w = .legal i) :
    CmdFields.ofWord w = encodeFields i := by
  rw [← encode_of_decode h, CmdFields.ofWord_encode]

/-- R44: the bits 7:4 of a word are the high nibble of its `DATA`. -/
theorem highNibble_data (w : CmdWord) :
    Machine.highNibble (CmdFields.ofWord w).data = w.extractLsb' 4 4 := by
  ext i hi
  simp [Machine.highNibble, CmdFields.ofWord]

/-- R86: among the legal words, those outside SUB's domain have `OP = 1` and `DATA[7:4] != 0`. -/
theorem outOfDomain_iff {w : CmdWord} {i : Instr} (h : decode w = .legal i) :
    i.OutOfDomain ↔ w.extractLsb' 12 4 = 0x1#4 ∧ w.extractLsb' 4 4 ≠ 0#4 := by
  have hop : w.extractLsb' 12 4 = (encodeFields i).op := congrArg CmdFields.op (ofWord_of_decode h)
  rw [hop, ← highNibble_data, ofWord_of_decode h]
  cases i <;> simp [Instr.OutOfDomain, encodeFields]

/-- R86: the fields of the words 0x1010 to 0x10FF. -/
theorem mem_domainErrorWords_iff (w : CmdWord) :
    0x1010#16 ≤ w ∧ w ≤ 0x10FF#16 ↔
      w.extractLsb' 12 4 = 0x1#4 ∧ w.extractLsb' 8 4 = 0#4 ∧ w.extractLsb' 4 4 ≠ 0#4 := by
  have := w.isLt
  simp only [BitVec.le_def, ne_eq, ← BitVec.toNat_inj, BitVec.extractLsb'_toNat, BitVec.toNat_ofNat,
    Nat.shiftRight_eq_div_pow]
  omega

theorem outOfDomain_iff_mem {w : CmdWord} {i : Instr} (h : decode w = .legal i) :
    i.OutOfDomain ↔ 0x1010#16 ≤ w ∧ w ≤ 0x10FF#16 := by
  obtain ⟨_, hrsv, _⟩ :=
    (CmdFields.fault?_eq_none _).mp ((exists_decode_legal_iff w).mp ⟨i, h⟩)
  have hrsv' : w.extractLsb' 8 4 = 0#4 := hrsv
  rw [outOfDomain_iff h, mem_domainErrorWords_iff, hrsv']
  tauto

theorem decode_legal_of_mem_domainErrorWords {w : CmdWord} (h : 0x1010#16 ≤ w ∧ w ≤ 0x10FF#16) :
    ∃ i, decode w = .legal i := by
  obtain ⟨hop, hrsv, _⟩ := (mem_domainErrorWords_iff w).mp h
  by_contra hnot
  have := (decode_ne_legal_iff w).mp (not_exists.mp hnot)
  simp [hop, hrsv] at this

end Sys2Proof

namespace Sys2Proof.Machine

/-! ## One step for each move -/

theorem step_of_host_nil {s : State} (h : s.host = []) : step s = idle s := by
  rw [step, hostStep, h]

theorem step_of_host_cons {s : State} {m : HostMove} {rest : List HostMove} (h : s.host = m :: rest) :
    step s = hostMove m (s.setHost rest) := by
  rw [step, hostStep, h]

/-! ## R89's checks, one by one -/

/-- R25, R103: a ready CORE has accepted one more word. -/
def State.accepted (s : State) : State := { s with index := s.index + 1, cmdReady := true }

theorem State.Settled.becomeReady_countCommand {s : State} (h : s.Settled) :
    s.becomeReady.countCommand = s.accepted := by
  obtain ⟨hflight, hwaiting⟩ := h
  simp [State.becomeReady, State.countCommand, State.accepted, hflight, hwaiting]

/-- Between commands a word is executed in the state that has accepted it. -/
theorem acceptCommand_eq_execWord (w : CmdWord) {s : State} (h : s.Settled) :
    acceptCommand w s = execWord w s.accepted := by
  rw [acceptCommand_of_settled w h, h.becomeReady_countCommand]

@[simp] theorem State.accepted_err (s : State) : s.accepted.err = s.err := rfl

/-- R88: every command but CLRERR is guarded by `runCommand`. -/
theorem exec_discarded {i : Instr} {s : State} (hi : i ≠ .clrerr) (herr : s.err = true) :
    exec i s = .next s := by
  obtain ⟨body, hbody⟩ := exec_is_guarded i hi
  rw [hbody, runCommand_discards body herr]

/-- R88: under an error every word but 0xB000, the word of CLRERR, is discarded. -/
theorem execWord_discarded {w : CmdWord} {s : State} (hcode : s.errcode ≠ 3#2)
    (herr : s.err = true) (hw : w ≠ 0xB000#16) : execWord w s = .next s := by
  cases hd : decode w with
  | legal i =>
    have hi : i ≠ .clrerr := by
      rintro rfl
      exact hw (encode_of_decode hd).symm
    rw [execWord_of_legal hcode hd, exec_discarded hi herr]
  | illegal why => rw [execWord_of_illegal hcode hd, runCommand_discards _ herr]

/-- R83, R88: the word of CLRERR clears the error. -/
theorem execWord_clrerr {s : State} (hcode : s.errcode ≠ 3#2) :
    execWord 0xB000#16 s = .next s.clearError :=
  execWord_of_legal hcode (decode_encode .clrerr)

/-- R85: an illegal word raises IllegalCommand. -/
theorem execWord_raises_illegalCommand {w : CmdWord} {why : IllegalReason} {s : State}
    (hcode : s.errcode ≠ 3#2) (herr : s.err = false) (hd : decode w = .illegal why) :
    execWord w s = .next (s.raise .illegalCommand) := by
  rw [execWord_of_illegal hcode hd, runCommand_runs _ herr]

/-- R86: a SUB outside its domain raises DomainError. -/
theorem exec_raises_domainError {i : Instr} {s : State} (herr : s.err = false)
    (hi : i.OutOfDomain) : exec i s = .next (s.raise .domainError) := by
  obtain ⟨data, rfl, hhigh⟩ := hi
  exact exec_sub_of_no_operand herr (if_neg hhigh)

/-- Settles O7: taking the move and accepting the word leave the state whose command is run. -/
theorem stepRunsTheDecodedInstruction : Obligations.StepRunsTheDecodedInstruction := by
  intro w i rest s hd hhost hsettled hcode
  rw [step_of_host_cons hhost, hostMove, acceptCommand_eq_execWord w (s := s.setHost rest) hsettled]
  exact execWord_of_legal hcode hd

/-- Settles O9: an instruction other than CLRERR is discarded. -/
theorem commandsAreDiscardedUnderAnError : Obligations.CommandsAreDiscardedUnderAnError :=
  fun _ _ => exec_discarded

/-- Settles O3: R49's checks are the three bullets, and an illegal word raises the error of code 1. -/
theorem illegalWordsRaiseIllegalCommand : Obligations.IllegalWordsRaiseIllegalCommand := by
  refine fun w => ⟨decode_ne_legal_iff w, fun s hillegal hsettled herr hcode => ?_⟩
  obtain ⟨why, hd⟩ := exists_decode_illegal hillegal
  rw [acceptCommand_eq_execWord w hsettled,
    execWord_raises_illegalCommand (s := s.accepted) hcode herr hd,
    State.raise_of_err_false (s := s.accepted) herr]
  rfl

/-- Settles O8: the checks one after the other; 0xB000 passes each of them, so under an error it runs
CLRERR. -/
theorem acceptedWordFollowsTheStepFunction : Obligations.AcceptedWordFollowsTheStepFunction := by
  intro w s n hsettled (hcode : s.accepted.errcode ≠ 3#2) hn
  obtain rfl : n = s.accepted := hn
  rw [acceptCommand_eq_execWord w hsettled]
  split
  case isTrue hdiscard =>
    obtain ⟨herr, hw⟩ := hdiscard
    exact execWord_discarded hcode herr hw
  case isFalse hrun =>
    have hpass : s.accepted.err = false ∨ w = 0xB000#16 := by simpa [imp_iff_not_or] using hrun
    obtain herr | rfl := hpass
    · cases hd : decode w with
      | illegal why =>
        rw [execWord_raises_illegalCommand hcode herr hd, State.raise_of_err_false herr]
        rfl
      | legal i =>
        rw [execWord_of_legal hcode hd]
        dsimp only
        split
        case isTrue hdomain =>
          rw [exec_raises_domainError herr ((outOfDomain_iff hd).mpr hdomain),
            State.raise_of_err_false herr]
          rfl
        case isFalse => rfl
    · exact execWord_clrerr hcode

/-! ## What raising an error leaves -/

/-- A word that ends with `ERR = 1`, begun with `ERR = 0`, has raised an error and written nothing
else. -/
theorem execWord_raised {w : CmdWord} {s t : State} (herr : s.err = false)
    (h : execWord w s = .next t) (hend : t.err = true) : ∃ e, t = s.raise e := by
  obtain ⟨_, ⟨i, _, hi⟩ | ⟨_, _, ⟨_, rfl⟩ | ⟨_, rfl⟩⟩⟩ := execWord_cases h
  · have hno {u : State} (hu : u.err = s.err) : u.err ≠ true := by simp [hu, herr]
    obtain rfl | ⟨r, rfl⟩ | ⟨e, _, rfl⟩ | ⟨c, r, rfl⟩ | ⟨k, rfl⟩ | ⟨v, rfl⟩ | ⟨c, rfl⟩ | rfl :=
      exec_writes hi
    · exact (hno rfl hend).elim
    · exact (hno (s.writeResult_err r) hend).elim
    · exact ⟨e, rfl⟩
    · exact (hno ((s.setChain c).writeResult_err r) hend).elim
    · exact (hno rfl hend).elim
    · exact (hno rfl hend).elim
    · exact (hno rfl hend).elim
    · simp at hend
  · simp [herr] at hend
  · exact ⟨_, rfl⟩

theorem ErrorKind.code_eq_one_or_two (e : ErrorKind) : e.code = 1#2 ∨ e.code = 2#2 := by
  cases e with
  | illegalCommand => exact .inl rfl
  | domainError => exact .inr rfl

/-- Settles O21: the word has raised an error, whose code is its kind's. -/
theorem errorsArePrecise : Obligations.ErrorsArePrecise := by
  intro w s t hsettled herr h hend
  rw [acceptCommand_eq_execWord w hsettled] at h
  obtain ⟨e, rfl⟩ := execWord_raised (s := s.accepted) herr h hend
  rw [State.raise_errcode s.accepted e herr, State.raise_of_err_false (s := s.accepted) herr]
  exact ⟨e.code_eq_one_or_two, rfl⟩

/-- R84: a command in its domain keeps the error code or clears it. -/
theorem exec_errcode_of_inDomain {i : Instr} {s t : State} (hi : ¬ i.OutOfDomain)
    (h : exec i s = .next t) : t.errcode = s.errcode ∨ t.errcode = 0#2 := by
  cases i with
  | sub data =>
    simp only [exec, execSub] at h
    obtain ⟨_, rfl⟩ | ⟨_, rfl⟩ := runCommand_cases h
    · exact .inl rfl
    · obtain ⟨_, hd⟩ | ⟨hhigh, _⟩ := halfBlockOperand_cases data
      · simp [hd]
      · exact (hi ⟨data, rfl, hhigh⟩).elim
  | nop | ldkey _ | ldiv _ | cbcrst =>
    simp only [exec, execNop, execLdkey, execLdiv, execCbcrst] at h
    obtain ⟨_, rfl⟩ | ⟨_, rfl⟩ := runCommand_cases h <;> exact .inl rfl
  | perm _ | xform _ | ecbe _ | ecbd _ =>
    simp only [exec, execPerm, execXform, execEcbe, execEcbd] at h
    obtain ⟨_, rfl⟩ | ⟨_, rfl⟩ := runCommand_cases h
    · exact .inl rfl
    · exact .inl (State.writeResult_errcode _ _)
  | cbce _ | cbcd _ =>
    simp only [exec, execCbce, execCbcd] at h
    obtain ⟨_, rfl⟩ | ⟨_, rfl⟩ := runCommand_cases h
    · exact .inl rfl
    · exact .inl (State.writeResult_errcode _ _)
  | clrerr => cases h; exact .inr s.clearError_errcode

/-- Settles O22: an illegal word is none of these and has code 1; a legal word is one of these exactly
when it is outside SUB's domain, and only then is code 2 written. -/
theorem domainErrorIsForTheseWords : Obligations.DomainErrorIsForTheseWords := by
  intro w s t hsettled (herr : s.accepted.err = false) (hcode : s.accepted.errcode = 0#2) h
  have hcode3 : s.accepted.errcode ≠ 3#2 := by rw [hcode]; decide
  rw [acceptCommand_eq_execWord w hsettled] at h
  cases hd : decode w with
  | illegal why =>
    rw [execWord_raises_illegalCommand hcode3 herr hd] at h
    cases h
    rw [State.raise_errcode _ _ herr]
    refine iff_of_false (by decide) fun hw => ?_
    obtain ⟨i, hi⟩ := decode_legal_of_mem_domainErrorWords hw
    cases hd.symm.trans hi
  | legal i =>
    rw [execWord_of_legal hcode3 hd] at h
    rw [← outOfDomain_iff_mem hd]
    by_cases hi : i.OutOfDomain
    · rw [exec_raises_domainError herr hi] at h
      cases h
      exact iff_of_true (State.raise_errcode _ _ herr) hi
    · refine iff_of_false (fun h2 => ?_) hi
      obtain hkept | hcleared := exec_errcode_of_inDomain hi h
      · cases (h2.symm.trans hkept).trans hcode
      · cases h2.symm.trans hcleared

end Sys2Proof.Machine
end

section
/-! The moves of the host (spec/60_exceptions.md R96 to R98): every presented word completes, waiting and
reading change nothing, and an error ends by the word 0xB000 or a reset alone (R92). -/

namespace Sys2Proof.Machine

/-! ## Reset, the host's duty, idle and reading -/

/-- R96: between commands the CORE is idle and becomes ready. -/
theorem idle_of_settled {s : State} (h : s.Settled) : idle s = .next s.becomeReady := by
  obtain ⟨hflight, hwaiting⟩ := h
  simp [idle, State.breaksDuty_of_waiting_none hwaiting, settle_of_inFlight_none hflight]

/-- R97, item I11: a host breaks its duty exactly when it does not present the word it must keep. -/
theorem State.breaksDuty_of_waiting_some {s : State} {w : CmdWord} (h : s.waiting = some w)
    (offer : Option CmdWord) : s.breaksDuty offer = true ↔ offer ≠ some w := by
  rw [State.breaksDuty, h]
  exact bne_iff_ne

/-- Settles O32: the reset pulse is the write `resetTo`. -/
theorem resetPulseRestoresTheResetState : Obligations.ResetPulseRestoresTheResetState :=
  fun _ _ => step_of_host_cons

/-- Settles O37: without a reset, the duty is checked before anything else. -/
theorem brokenHandshakeIsRefused : Obligations.BrokenHandshakeIsRefused := by
  intro p w s hrst hwaiting hoffer
  have hbreaks : s.countEdge.breaksDuty p.offer = true :=
    (State.breaksDuty_of_waiting_some (s := s.countEdge) hwaiting _).mpr hoffer
  simp [clockEdge, hrst, hbreaks]

/-- Settles O38: an idle step makes ready a CORE in which nothing is in progress; a read takes its move. -/
theorem idleAndReadingChangeNothing : Obligations.IdleAndReadingChangeNothing := by
  refine fun s rest => ⟨fun hsettled hhost => ?idle, step_of_host_cons⟩
  case idle =>
    have hflight : s.inFlight = none := hsettled.left
    rw [step_of_host_nil hhost, idle_of_settled hsettled, State.becomeReady, ← hflight]

/-! ## Completion -/

/-- At a code the hardware produces every word answers (R89, R98). -/
theorem execWord_answers (w : CmdWord) {s : State} (hcode : s.errcode ≠ 3#2) :
    ∃ t, execWord w s = .next t := by
  cases hd : decode w with
  | legal i => rw [execWord_of_legal hcode hd]; exact exec_answers i s
  | illegal why => rw [execWord_of_illegal hcode hd]; exact ⟨_, rfl⟩

/-- A word's execution leaves the index and the handshake as its acceptance has set them. -/
theorem execWord_keeps_handshake {w : CmdWord} {s t : State} (h : execWord w s = .next t) :
    t.index = s.index ∧ t.inFlight = s.inFlight ∧ t.cmdReady = s.cmdReady ∧ t.waiting = s.waiting := by
  obtain ⟨_, ⟨i, _, hi⟩ | ⟨_, _, ⟨_, rfl⟩ | ⟨_, rfl⟩⟩⟩ := execWord_cases h
  · obtain rfl | ⟨_, rfl⟩ | ⟨_, _, rfl⟩ | ⟨_, _, rfl⟩ | ⟨_, rfl⟩ | ⟨_, rfl⟩ | ⟨_, rfl⟩ | rfl :=
      exec_writes hi <;> exact ⟨rfl, rfl, rfl, rfl⟩
  · exact ⟨rfl, rfl, rfl, rfl⟩
  · exact ⟨rfl, rfl, rfl, rfl⟩

theorem settle_of_inFlight_some {s : State} {f : InFlight} (h : s.inFlight = some f) :
    settle s = execWord f.word s.becomeReady := by
  rw [settle, h]
  rfl

theorem settle_answers {s : State} (hcode : s.errcode ≠ 3#2) : ∃ t, settle s = .next t := by
  cases hflight : s.inFlight with
  | none => exact ⟨_, settle_of_inFlight_none hflight⟩
  | some f => rw [settle_of_inFlight_some hflight]; exact execWord_answers f.word hcode

/-- R103: waiting for readiness ends with nothing in progress, and counts nothing. -/
theorem settle_handshake {s t : State} (h : settle s = .next t) :
    t.index = s.index ∧ t.inFlight = none ∧ t.cmdReady = true := by
  obtain ⟨f, _, hw⟩ | ⟨_, rfl⟩ := settle_cases h
  · obtain ⟨hindex, hflight, hready, _⟩ := execWord_keeps_handshake hw
    exact ⟨hindex, hflight, hready⟩
  · exact ⟨rfl, rfl, rfl⟩

theorem acceptCommand_of_settle {w : CmdWord} {s u : State}
    (hduty : s.waiting = none ∨ s.waiting = some w) (h : settle s = .next u) :
    acceptCommand w s = execWord w u.countCommand := by
  have hkeeps : s.breaksDuty (some w) = false := by
    obtain hnone | hsome := hduty
    · exact State.breaksDuty_of_waiting_none hnone _
    · simpa using mt (State.breaksDuty_of_waiting_some hsome (some w)).mp
  simp [acceptCommand, hkeeps, h]

/-- Settles O29: the command in progress completes, and in the legal state it leaves the word is counted
and executed. -/
theorem everyAcceptedCommandCompletes : Obligations.EveryAcceptedCommandCompletes := by
  intro w s hlegal hduty
  have hcode {u : State} (hu : u.Legal) : u.errcode ≠ 3#2 := by
    obtain ⟨⟨_, h, _⟩, _⟩ := hu
    exact h
  obtain ⟨u, hu⟩ := settle_answers (hcode hlegal)
  obtain ⟨huindex, huflight, huready⟩ := settle_handshake hu
  obtain ⟨t, ht⟩ :=
    execWord_answers w (hcode (countCommand_legal (settle_keeps_legal hlegal hu)))
  obtain ⟨hindex, hflight, hready, hwaiting⟩ := execWord_keeps_handshake ht
  refine ⟨t, (acceptCommand_of_settle hduty hu).trans ht, ?_, hflight.trans huflight,
    hready.trans huready, hwaiting⟩
  rw [hindex, State.countCommand_index, huindex]

/-! ## The end of an error -/

/-- R87: the error of `s` is still there in `t`, with the code recorded first. -/
def KeepsError (s t : State) : Prop := t.err = true ∧ t.errcode = s.errcode

/-- R92: there is no error any more. -/
def ErrorEnded (t : State) : Prop := t.err = false ∧ t.errcode = 0#2

theorem clearError_errorEnded (s : State) : ErrorEnded s.clearError :=
  ⟨s.clearError_err, s.clearError_errcode⟩

theorem resetTo_errorEnded (s : State) (ready : Bool) : ErrorEnded (s.resetTo ready) :=
  ⟨s.resetTo_err ready, s.resetTo_errcode ready⟩

/-- What a word does under an error: only 0xB000 does anything (R83, R88). -/
theorem execWord_under_error {w : CmdWord} {s t : State} (herr : s.err = true)
    (h : execWord w s = .next t) :
    (w ≠ 0xB000#16 ∧ t = s) ∨ (w = 0xB000#16 ∧ t = s.clearError) := by
  obtain ⟨hcode, _⟩ := execWord_cases h
  by_cases hw : w = 0xB000#16
  · subst hw
    exact .inr ⟨rfl, Host.Outcome.next.inj (h.symm.trans (execWord_clrerr hcode))⟩
  · exact .inl ⟨hw, Host.Outcome.next.inj (h.symm.trans (execWord_discarded hcode herr hw))⟩

/-- Waiting for readiness keeps the error, unless the command in progress is 0xB000. -/
theorem settle_under_error {s t : State} (hflight : ∀ f, s.inFlight = some f → f.word ≠ 0xB000#16)
    (herr : s.err = true) (h : settle s = .next t) : t = s.becomeReady := by
  obtain ⟨f, hf, hw⟩ | ⟨_, rfl⟩ := settle_cases h
  · obtain ⟨_, rfl⟩ | ⟨hclrerr, _⟩ := execWord_under_error (s := s.becomeReady) herr hw
    · rfl
    · exact (hflight f hf hclrerr).elim
  · rfl

theorem acceptCommand_under_error {w : CmdWord} {s t : State}
    (hflight : ∀ f, s.inFlight = some f → f.word ≠ 0xB000#16) (herr : s.err = true)
    (h : acceptCommand w s = .next t) :
    KeepsError s t ∨ (w = 0xB000#16 ∧ ErrorEnded t) := by
  obtain ⟨_, u, hu, hw⟩ := acceptCommand_cases h
  obtain rfl := settle_under_error hflight herr hu
  obtain ⟨_, rfl⟩ | ⟨rfl, rfl⟩ := execWord_under_error (s := s.becomeReady.countCommand) herr hw
  · exact .inl ⟨herr, rfl⟩
  · exact .inr ⟨rfl, clearError_errorEnded _⟩

theorem beginCommand_under_error {w : CmdWord} {s t : State} (herr : s.err = true)
    (h : beginCommand w s = .next t) : KeepsError s t ∨ (w = 0xB000#16 ∧ ErrorEnded t) := by
  obtain ⟨_, hw⟩ | ⟨_, rfl⟩ := beginCommand_cases h
  · obtain ⟨_, rfl⟩ | ⟨rfl, rfl⟩ := execWord_under_error (s := s.countCommand.becomeReady) herr hw
    · exact .inl ⟨herr, rfl⟩
    · exact .inr ⟨rfl, clearError_errorEnded _⟩
  · exact .inl ⟨herr, rfl⟩

/-- An edge keeps the error, or is a reset, completes a 0xB000 in progress or accepts the word 0xB000,
and the error has then ended. -/
theorem clockEdge_under_error {p : Pins} {s t : State} (herr : s.err = true)
    (h : clockEdge p s = .next t) :
    (p.rst = true ∧ ErrorEnded t) ∨
      (p.rst = false ∧
        ((∃ f, s.inFlight = some f ∧ ¬ (f.remaining ≤ 1 ∧ f.word = 0xB000#16) ∧ KeepsError s t) ∨
          (∃ f, s.inFlight = some f ∧ f.remaining ≤ 1 ∧ f.word = 0xB000#16 ∧ ErrorEnded t) ∨
          (s.inFlight = none ∧ (KeepsError s t ∨ (p.offer = some 0xB000#16 ∧ ErrorEnded t))))) := by
  have hkept : KeepsError s s := ⟨herr, rfl⟩
  obtain ⟨hrst, rfl⟩ | ⟨hrst, _, hedge⟩ := clockEdge_cases h
  · exact .inl ⟨hrst, resetTo_errorEnded _ _⟩
  refine .inr ⟨hrst, ?_⟩
  obtain ⟨f, hf, hlast, hw⟩ | ⟨f, hf, hleft, rfl⟩ | ⟨w, hf, _, hoffer, hw⟩ | ⟨hf, _, _, rfl⟩ |
    ⟨hf, _, rfl⟩ := hedge
  · obtain ⟨hword, rfl⟩ | ⟨hword, rfl⟩ :=
      execWord_under_error (s := (s.countEdge.setWaiting p.offer).becomeReady) herr hw
    · exact .inl ⟨f, hf, fun hdone => hword hdone.right, hkept⟩
    · exact .inr (.inl ⟨f, hf, hlast, hword, clearError_errorEnded _⟩)
  · exact .inl ⟨f, hf, fun hdone => hleft hdone.left, hkept⟩
  · refine .inr (.inr ⟨hf, ?_⟩)
    obtain hkeeps | ⟨rfl, hended⟩ := beginCommand_under_error (s := s.countEdge) herr hw
    · exact .inl hkeeps
    · exact .inr ⟨hoffer, hended⟩
  · exact .inr (.inr ⟨hf, .inl hkept⟩)
  · exact .inr (.inr ⟨hf, .inl hkept⟩)

/-- R92 for a step that starts with no 0xB000 in progress. -/
theorem step_under_error {s t : State} (hflight : ∀ f, s.inFlight = some f → f.word ≠ 0xB000#16)
    (herr : s.err = true) (h : step s = .next t) :
    KeepsError s t ∨ ((s.offered = some 0xB000#16 ∨ s.resetNext = true) ∧ ErrorEnded t) := by
  obtain ⟨_, hidle⟩ | ⟨rest, _, rfl⟩ | ⟨rest, hhost, rfl⟩ | ⟨w, rest, hhost, haccept⟩ |
    ⟨p, rest, hhost, hedge⟩ := step_cases h
  · obtain ⟨_, hsettle⟩ := idle_cases hidle
    obtain rfl := settle_under_error hflight herr hsettle
    exact .inl ⟨herr, rfl⟩
  · exact .inl ⟨herr, rfl⟩
  · exact .inr ⟨.inr (by rw [State.resetNext, hhost]), resetTo_errorEnded _ _⟩
  · obtain hkeeps | ⟨rfl, hended⟩ :=
      acceptCommand_under_error (s := s.setHost rest) hflight herr haccept
    · exact .inl hkeeps
    · exact .inr ⟨.inl (by rw [State.offered, hhost]), hended⟩
  · have hoffered : s.offered = p.offer := by rw [State.offered, hhost]
    have hreset : s.resetNext = p.rst := by rw [State.resetNext, hhost]
    rw [hoffered, hreset]
    obtain ⟨hrst, hended⟩ | ⟨_, ⟨f, _, _, hkeeps⟩ | ⟨f, hf, _, hword, _⟩ | ⟨_, hnone⟩⟩ :=
      clockEdge_under_error (s := s.setHost rest) herr hedge
    · exact .inr ⟨.inr hrst, hended⟩
    · exact .inl hkeeps
    · exact (hflight f hf hword).elim
    · exact hnone.imp id fun ⟨hoffer, hended⟩ => ⟨.inl hoffer, hended⟩

/-- R92 for an edge inside a command. -/
theorem clockEdge_inside_under_error {p : Pins} {s t : State} {f : InFlight}
    (hflight : s.inFlight = some f) (herr : s.err = true) (h : clockEdge p s = .next t) :
    if p.rst = true ∨ (f.remaining ≤ 1 ∧ f.word = 0xB000#16) then ErrorEnded t
    else KeepsError s t := by
  obtain ⟨hrst, hended⟩ | ⟨hrst, ⟨g, hg, hnot, hkeeps⟩ | ⟨g, hg, hlast, hword, hended⟩ | ⟨hnone, _⟩⟩ :=
    clockEdge_under_error herr h
  · rwa [if_pos (.inl hrst)]
  · obtain rfl : g = f := Option.some.inj (hg.symm.trans hflight)
    rwa [if_neg (not_or.mpr ⟨by simp [hrst], hnot⟩)]
  · obtain rfl : g = f := Option.some.inj (hg.symm.trans hflight)
    rwa [if_pos (.inr ⟨hlast, hword⟩)]
  · cases hflight.symm.trans hnone

/-- Waiting completes a 0xB000 in progress, which clears the error. -/
theorem settle_of_clrerr_inFlight {s : State} {f : InFlight} (hflight : s.inFlight = some f)
    (hword : f.word = 0xB000#16) (hcode : s.errcode ≠ 3#2) :
    settle s = settle s.becomeReady.clearError := by
  have hdone : settle s.becomeReady.clearError = .next s.becomeReady.clearError :=
    settle_of_inFlight_none rfl
  rw [hdone, settle_of_inFlight_some hflight, hword]
  exact execWord_clrerr hcode

/-- R92 for a 0xB000 in progress: waiting and presenting a word begin with its completion. -/
theorem step_of_clrerr_inFlight {s : State} {f : InFlight} (hflight : s.inFlight = some f)
    (hword : f.word = 0xB000#16) (hcode : s.errcode ≠ 3#2)
    (hhost : s.host = [] ∨ ∃ w rest, s.host = .command w :: rest) :
    step s = step s.becomeReady.clearError := by
  obtain hnil | ⟨w, rest, hcons⟩ := hhost
  · rw [step_of_host_nil hnil, step_of_host_nil (s := s.becomeReady.clearError) hnil, idle,
      settle_of_clrerr_inFlight hflight hword hcode]
    rfl
  · rw [step_of_host_cons hcons, step_of_host_cons (s := s.becomeReady.clearError) hcons, hostMove,
      acceptCommand, settle_of_clrerr_inFlight (s := s.setHost rest) hflight hword hcode]
    rfl

/-- Settles O23: R92 for steps, for edges inside a command and for a 0xB000 in progress. -/
theorem errorEndsByClrerrOrReset : Obligations.ErrorEndsByClrerrOrReset :=
  ⟨fun _ _ => step_under_error, fun _ _ _ _ => clockEdge_inside_under_error,
    fun _ _ => step_of_clrerr_inFlight⟩

end Sys2Proof.Machine
end

section
/-! The clock edges (spec/70_reset_and_hazards.md R99, R103, R105, R107): what one edge does in each
situation of the handshake, a whole command as a run of edges, and the word the host holds meanwhile. -/

namespace Sys2Proof.Machine

/-! ## One edge in each situation of the handshake -/

/-- R97: a host keeps its duty when it held no word, or goes on presenting what it held. -/
theorem State.breaksDuty_eq_false {s : State} {offer : Option CmdWord}
    (h : s.waiting = none ∨ s.waiting = offer) : s.breaksDuty offer = false := by
  obtain hnone | hsame := h
  · exact State.breaksDuty_of_waiting_none hnone offer
  · cases offer with
    | none => exact State.breaksDuty_of_waiting_none hsame none
    | some w => simpa using mt (State.breaksDuty_of_waiting_some hsame (some w)).mp

@[simp] theorem State.countEdge_breaksDuty (s : State) (offer : Option CmdWord) :
    s.countEdge.breaksDuty offer = s.breaksDuty offer := rfl

/-- R99, R107: reset comes before everything else. -/
theorem clockEdge_of_rst {p : Pins} (s : State) (hrst : p.rst = true) :
    clockEdge p s = .next (s.countEdge.resetTo false) := by
  simp [clockEdge, hrst]

section Running

variable {p : Pins} {s : State}

/-- R99: the edge after a reset accepts nothing and makes the CORE ready. -/
theorem clockEdge_of_not_ready (hrst : p.rst = false) (hduty : s.waiting = none ∨ s.waiting = p.offer)
    (hflight : s.inFlight = none) (hready : s.cmdReady = false) :
    clockEdge p s = .next (s.countEdge.setWaiting p.offer).becomeReady := by
  simp [clockEdge, hrst, State.breaksDuty_eq_false hduty, hflight, hready]

/-- R103: a ready CORE accepts the word presented. -/
theorem clockEdge_of_ready {w : CmdWord} (hrst : p.rst = false) (hoffer : p.offer = some w)
    (hduty : s.waiting = none ∨ s.waiting = some w)
    (hflight : s.inFlight = none) (hready : s.cmdReady = true) :
    clockEdge p s = beginCommand w s.countEdge := by
  simp [clockEdge, hrst, State.breaksDuty_eq_false hduty, hflight, hready, hoffer]

/-- R103: inside a command an edge brings the completion nearer. -/
theorem clockEdge_of_inFlight {f : InFlight} (hrst : p.rst = false)
    (hduty : s.waiting = none ∨ s.waiting = p.offer)
    (hflight : s.inFlight = some f) (hleft : 1 < f.remaining) :
    clockEdge p s =
      .next ((s.countEdge.setWaiting p.offer).busyWith ⟨f.word, f.remaining - 1⟩) := by
  simp [clockEdge, hrst, State.breaksDuty_eq_false hduty, hflight, hleft]

/-- R103, R38: at the completion edge the command has its whole effect. -/
theorem clockEdge_of_completion {f : InFlight} (hrst : p.rst = false)
    (hduty : s.waiting = none ∨ s.waiting = p.offer)
    (hflight : s.inFlight = some f) (hlast : f.remaining ≤ 1) :
    clockEdge p s = execWord f.word (s.countEdge.setWaiting p.offer).becomeReady := by
  simp [clockEdge, hrst, State.breaksDuty_eq_false hduty, hflight, hlast, finishCommand]

end Running

/-- Settles O31: the edge with `rst = 1` resets, and the edge after it finds the CORE not yet ready. -/
theorem resetEdgeSetsEveryElement : Obligations.ResetEdgeSetsEveryElement := fun _ _ s hp hq =>
  ⟨_, clockEdge_of_rst s hp, rfl, _, clockEdge_of_not_ready hq (.inl rfl) rfl rfl, rfl⟩

/-- Settles O33: R105's bounds hold by the definition of the latency as a remainder. -/
theorem latencyIsWithinItsBounds : Obligations.LatencyIsWithinItsBounds :=
  ⟨Nat.succ_pos _, fun op => ⟨one_le_latency op, latency_le_LATENCY op⟩⟩

/-- Settles O35: such an edge writes the handshake alone. -/
theorem registersKeepInsideACommand : Obligations.RegistersKeepInsideACommand :=
  fun _ _ _ hrst hflight hleft hduty => clockEdge_of_inFlight hrst hduty hflight hleft

/-! ## The edges of a command in progress -/

/-- The model's edge counter after `n` edges more. -/
def State.countEdges (s : State) (n : Nat) : State := { s with edges := s.edges + n }

/-- The state in which a command completes after `n` edges more, the host then presenting `offer`. -/
def State.completing (s : State) (n : Nat) (offer : Option CmdWord) : State :=
  ((s.countEdges n).setWaiting offer).becomeReady

theorem State.countEdge_completing (s : State) (n : Nat) (offer : Option CmdWord) :
    s.countEdge.completing n offer = s.completing (n + 1) offer := by
  have hedges : s.countEdge.countEdges n = s.countEdges (n + 1) := by
    simp [State.countEdges, State.countEdge, Nat.add_assoc, Nat.add_comm 1 n]
  rw [State.completing, hedges, State.completing]

/-- What an edge inside a command writes makes no difference to the state in which it completes. -/
theorem State.busyEdge_completing (s : State) (f : InFlight) (offer offer' : Option CmdWord) (n : Nat) :
    ((s.countEdge.setWaiting offer).busyWith f).completing n offer' = s.completing (n + 1) offer' :=
  s.countEdge_completing n offer'

/-- R103: the edges left to a command execute it at the last of them, whatever the host presents and
keeps meanwhile; the offer of the last edge is still held. -/
theorem clockRun_inFlight {p : Pins} {later : List Pins} {s : State} {f : InFlight}
    (hflight : s.inFlight = some f) (hremaining : f.remaining = (p :: later).length)
    (hrst : ∀ q ∈ p :: later, q.rst = false) (hduty : s.waiting = none ∨ s.waiting = p.offer)
    (hkeeps : KeepsOffers (p :: later)) :
    clockRun (p :: later) s =
      execWord f.word
        (s.completing (p :: later).length ((p :: later).getLast?.bind Pins.offer)) := by
  have hp : p.rst = false := hrst p List.mem_cons_self
  induction later generalizing p s f with
  | nil =>
    rw [clockRun, clockEdge_of_completion hp hduty hflight hremaining.le]
    exact andThen_only_next _
  | cons q later ih =>
    obtain ⟨hpq, htail⟩ := List.isChain_cons_cons.mp hkeeps
    have hrst' : ∀ r ∈ q :: later, r.rst = false := fun r hr => hrst r (List.mem_cons_of_mem _ hr)
    rw [List.length_cons] at hremaining
    have hleft : 1 < f.remaining := hremaining ▸ Nat.succ_lt_succ (Nat.succ_pos _)
    rw [clockRun, clockEdge_of_inFlight hp hduty hflight hleft, andThen_next,
      ih rfl (Nat.sub_eq_of_eq_add hremaining) hrst' (hpq.imp id Eq.symm) htail
        (hrst' q List.mem_cons_self),
      State.busyEdge_completing, List.getLast?_cons_cons, List.length_cons (a := p)]

/-- R97, R103: the edges left to a command, for a host that holds one word all the time. -/
theorem clockRun_holding {w : CmdWord} {s : State} {f : InFlight} (hflight : s.inFlight = some f)
    (hleft : 1 ≤ f.remaining) (hduty : s.waiting = none ∨ s.waiting = some w) :
    clockRun (List.replicate f.remaining ⟨false, true, w⟩) s =
      execWord f.word (s.completing f.remaining (some w)) := by
  obtain ⟨n, hn⟩ : ∃ n, f.remaining = n + 1 := Nat.exists_eq_add_one.mpr hleft
  have hlength : (List.replicate (n + 1) (Pins.mk false true w)).length = n + 1 :=
    List.length_replicate
  have hlast : (List.replicate (n + 1) (Pins.mk false true w)).getLast?.bind Pins.offer = some w := by
    simp [List.getLast?_replicate, Pins.offer]
  have hkeeps : KeepsOffers (List.replicate (n + 1) (Pins.mk false true w)) :=
    List.isChain_replicate_of_rel _ (.inr rfl)
  have hrst : ∀ q ∈ List.replicate (n + 1) (Pins.mk false true w), q.rst = false := by simp
  rw [List.replicate_succ] at hlength hlast hkeeps hrst
  rw [hn, List.replicate_succ,
    clockRun_inFlight hflight (hn.trans hlength.symm) hrst hduty hkeeps, hlength, hlast]

/-! ## The acceptance of a word at an edge -/

/-- R105: with `L = 1` the word is executed at the edge that accepts it. -/
theorem beginCommand_of_latency_one {w : CmdWord} (hlatency : Config.latency (w.extractLsb' 12 4) = 1)
    (s : State) : beginCommand w s = execWord w s.countCommand.becomeReady :=
  if_pos hlatency

/-- R103, R105: with `L > 1` the word is in progress for `L - 1` edges more. -/
theorem beginCommand_of_latency_ne_one {w : CmdWord}
    (hlatency : Config.latency (w.extractLsb' 12 4) ≠ 1) (s : State) :
    beginCommand w s =
      .next (s.countCommand.busyWith ⟨w, Config.latency (w.extractLsb' 12 4) - 1⟩) :=
  if_neg hlatency

/-- R103: a step counts a word and executes it, in the state in which edges complete it: what the host
holds afterwards makes no difference. -/
theorem acceptCommand_completing {w : CmdWord} {s : State} (n : Nat) (offer : Option CmdWord)
    (hduty : s.waiting = none ∨ s.waiting = some w) (hflight : s.inFlight = none) :
    (Result.andThen (acceptCommand w (s.countEdges n)) fun t => .next (t.setWaiting offer)) =
      execWord w (s.countCommand.completing n offer) := by
  have hsettle : settle (s.countEdges n) = .next (s.countEdges n).becomeReady :=
    settle_of_inFlight_none hflight
  rw [acceptCommand_of_settle (s := s.countEdges n) hduty hsettle, ← execWord_waiting]
  rfl

/-- Settles O34: with `L = 1` the acceptance edge executes the word, and else the last edge after it. -/
theorem clockEdgesExecuteTheCommand : Obligations.ClockEdgesExecuteTheCommand := by
  intro w later s hflight hready hduty hlatency hrst hkeeps
  refine Eq.trans ?_ (acceptCommand_completing _ _ hduty hflight).symm
  rw [← hlatency, clockRun, clockEdge_of_ready rfl rfl hduty hflight hready]
  cases later with
  | nil =>
    rw [beginCommand_of_latency_one hlatency.symm]
    exact andThen_only_next _
  | cons q later =>
    have hmore : Config.latency (w.extractLsb' 12 4) ≠ 1 := by simp [← hlatency]
    have hremaining : Config.latency (w.extractLsb' 12 4) - 1 = (q :: later).length :=
      Nat.sub_eq_of_eq_add hlatency.symm
    rw [beginCommand_of_latency_ne_one hmore, andThen_next,
      clockRun_inFlight rfl hremaining hrst (.inl rfl) hkeeps]
    exact congrArg (execWord w) (s.countCommand.countEdge_completing _ _)

/-! ## A word held from inside a command -/

/-- R23: no executed word leaves the code 3. -/
theorem execWord_errcode_ne_three {w : CmdWord} {s t : State} (h : execWord w s = .next t) :
    t.errcode ≠ 3#2 := by
  have hraise (he : s.err = false) (e : ErrorKind) : (s.raise e).errcode ≠ 3#2 := by
    rw [s.raise_errcode e he]
    exact e.code_ne_three
  obtain ⟨hcode, ⟨i, _, hi⟩ | ⟨_, _, ⟨_, rfl⟩ | ⟨he, rfl⟩⟩⟩ := execWord_cases h
  · obtain rfl | ⟨_, rfl⟩ | ⟨e, he, rfl⟩ | ⟨_, _, rfl⟩ | ⟨_, rfl⟩ | ⟨_, rfl⟩ | ⟨_, rfl⟩ | rfl :=
      exec_writes hi
    · exact hcode
    · simpa using hcode
    · exact hraise he e
    · rw [State.writeResult_errcode]; exact hcode
    · exact hcode
    · exact hcode
    · exact hcode
    · simp
  · exact hcode
  · exact hraise he _

/-- R103: the edge that accepts a word counts it once, and the host need hold it no longer. -/
theorem beginCommand_answers (w : CmdWord) {s : State} (hcode : s.errcode ≠ 3#2) :
    ∃ u, beginCommand w s = .next u ∧ u.index = s.index + 1 ∧ u.waiting = none := by
  by_cases hlatency : Config.latency (w.extractLsb' 12 4) = 1
  · obtain ⟨u, hu⟩ := execWord_answers w (s := s.countCommand.becomeReady) hcode
    obtain ⟨hindex, _, _, hwaiting⟩ := execWord_keeps_handshake hu
    exact ⟨u, (beginCommand_of_latency_one hlatency s).trans hu, hindex, hwaiting⟩
  · exact ⟨_, beginCommand_of_latency_ne_one hlatency s, rfl, rfl⟩

/-- Settles O36: the edges left complete the command in progress with `w` still held, and the ready CORE
then accepts `w` whether or not it was held. -/
theorem heldWordIsTakenOnce : Obligations.HeldWordIsTakenOnce := by
  rintro w s f ⟨_, hcode, _⟩ hflight hleft hduty
  obtain ⟨t, ht⟩ := execWord_answers f.word (s := s.completing f.remaining (some w)) hcode
  obtain ⟨hindex, htflight, htready, htwaiting⟩ := execWord_keeps_handshake ht
  have htcode : t.errcode ≠ 3#2 := execWord_errcode_ne_three ht
  obtain ⟨u, hu, huindex, huwaiting⟩ := beginCommand_answers w (s := t.countEdge) htcode
  refine ⟨t, u, (clockRun_holding hflight hleft hduty).trans ht, ht, hindex, htwaiting, htflight,
    htready, ?held, ?notHeld, huindex.trans (congrArg (· + 1) hindex), huwaiting, ?taken⟩
  case held => exact (clockEdge_of_ready rfl rfl (.inr htwaiting) htflight htready).trans hu
  case notHeld =>
    exact (clockEdge_of_ready (s := t.setWaiting none) rfl rfl (.inl rfl) htflight htready).trans hu
  case taken =>
    split
    next hlatency =>
      have hsettled : (t.countEdge.setWaiting none).Settled := ⟨htflight, rfl⟩
      rw [beginCommand_of_latency_one hlatency] at hu
      exact (acceptCommand_of_settled w hsettled).trans hu
    next hlatency =>
      rw [beginCommand_of_latency_ne_one hlatency] at hu
      exact (Host.Outcome.next.inj hu).symm

end Sys2Proof.Machine
end
